-- ==== Sys2Proof/Word.lean ====
section
/-! DEFINITION. The word types of the block (00_scope.md R8): a byte is 8 bits, the widest register and every
port value is 16 bits. -/

namespace Sys2Proof

/-- A byte, 8 bits, bit 7 the most significant (R8). -/
abbrev Byte := BitVec 8

/-- A 16-bit value: the counters, the baud rate, the frequency, the port values (10_state.md R20, R39). -/
abbrev Half := BitVec 16

end Sys2Proof
end

