-- ==== Sys2Proof/Config.lean ====
section
/-! DEFINITION. The implementation parameters of 00_scope.md R7 with the value this hardware takes, the two OPEN
parameters' values of the reset instance only, and the free values (no body: nothing can be proved of one). -/

namespace Sys2Proof.Config

/-- `CRC_POLY`, the low 8 bits of the generator polynomial (R7). -/
def crcPoly : Byte := 0xD5#8
/-- `CRC_SEED` (R7). -/
def crcSeed : Byte := 0x00#8
/-- `RXCRC_SEED`, where the parser's running CRC starts (R7, R95). -/
def rxcrcSeed : Byte := 0x00#8
/-- `PAD`, the leading byte of an outbound frame (R7). -/
def pad : Byte := 0x00#8
/-- `MAGIC0` (R7). -/
def magic0 : Byte := 0xAA#8
/-- `MAGIC1` (R7). -/
def magic1 : Byte := 0x55#8
/-- `RESYNC_MAX`, the bytes the parser may discard while searching for the magic (R7). -/
def resyncMax : Nat := 3
/-- `PAYMAX`, the largest payload length (R7). -/
def payMax : Nat := 255
/-- `BAUD_MIN` (R7). -/
def baudMin : Nat := 4650
/-- `BAUD_MAX` (R7). -/
def baudMax : Nat := 4950
/-- `BAUD_STEP` (R7). -/
def baudStep : Nat := 50
/-- `BAUD_INIT` (R7). -/
def baudInit : Half := 4800#16
/-- `PCT_GOOD`, the percentage below which the controller adjusts (R7). -/
def pctGood : Nat := 70
/-- `WARM_NOBASE`, the warm-up length with no prior baseline (R7). -/
def warmNoBase : Nat := 3
/-- `WARM_BASE`, the warm-up length with a prior baseline (R7). -/
def warmBase : Nat := 10
/-- `RX_TIMEOUT`, the empty polls after which a receive reports Timeout (R7). -/
def rxTimeout : Half := 750#16

/-- `CMD_GET_SETTINGS` (R7, R100). -/
def cmdGetSettings : Byte := 0x01#8
/-- `CMD_SET_POWER` (R7, R100). -/
def cmdSetPower : Byte := 0x02#8
/-- `CMD_SET_CHANNEL` (R7, R100). -/
def cmdSetChannel : Byte := 0x03#8
/-- `CMD_SET_FREQUENCY` (R7, R100). -/
def cmdSetFrequency : Byte := 0x04#8
/-- `CMD_SET_MODE` (R7, R100). -/
def cmdSetMode : Byte := 0x05#8
/-- `CMD_GET_SETTINGS_V2` (R7, R100). -/
def cmdGetSettingsV2 : Byte := 0x09#8
/-- `CMD_GET_SETTINGS_V21` (R7, R100). -/
def cmdGetSettingsV21 : Byte := 0x11#8

/-- `LEGACY_CHECK_FATAL`: whether a failing legacy check aborts the decode (R7, R190). -/
def legacyCheckFatal : Bool := false
/-- `UNKNOWN_COUNTS`: whether an UnknownCommand response increments the receive counter (R7, R195). -/
def unknownCounts : Bool := true

/-- DESIGN CHOICE (entry 5), unsafe only for a claim about this one value: `QCAP` is OPEN (R7); this is the value
of the instance `State.reset` stands for, and nothing but `State.reset` reads it. -/
def qcap : Nat := 64
/-- DESIGN CHOICE (entry 5), unsafe only for a claim about this one value: `TX_TIMEOUT` is OPEN (R7); this is the
value of the instance `State.reset` stands for, and nothing but `State.reset` reads it. -/
def txTimeout : Half := 8#16

/-- FREE VALUE (43_frame_parser.md R197, entry 8): what the n-th read of a payload byte outside the received frame
gives. -/
opaque freeByte : Nat → Byte

/-- FREE VALUE (45_transport_exchange.md R264, entry 9): ENV's answer to `transmit_ready()` at the n-th draw, where
no input carries the answer. -/
opaque freeReady : Nat → Bool

end Sys2Proof.Config
end

