-- ==== Sys2Proof/Syntax.lean ====
section
/-! DEFINITION. The instructions: one constructor for each row of spec/opcode_table.json. Operands that the spec
ignores (`ARG` of an operation without operand, `DATA` of `EV.TXC`; 30_encoding.md R111, R113) are not held. A frame
row holds the frame's payload and, for a response with a trailing CRC, the CRC byte received; pad, magic, command
byte, length and a request's CRC follow from those (R90, R94, R96). -/

namespace Sys2Proof

inductive Instr where
  /-- `Q.POP` (40_queue.md R133). -/
  | qPop
  /-- `Q.AVAIL` (R135). -/
  | qAvail
  /-- `Q.CLEAR` (R136). -/
  | qClear
  /-- `CRC.INIT` (41_crc.md R154). -/
  | crcInit
  /-- `CRC.UPD b` (R155). -/
  | crcUpd (b : Byte)
  /-- `FB.BUILD cmd` (42_frame_builder.md R166). -/
  | fbBuild (cmd : Byte)
  /-- `BR.STEP` (44_baud.md R230). -/
  | brStep
  /-- `BR.RECONF` (R238). -/
  | brReconf
  /-- `T.SEND` (45_transport_exchange.md R262). -/
  | tSend
  /-- `T.RECV` (R266). -/
  | tRecv
  /-- `T.EXPECT v` (R268). -/
  | tExpect (v : Byte)
  /-- `X.ECHO` (R275). -/
  | xEcho
  /-- `FP.PARSE` (43_frame_parser.md R180). -/
  | fpParse
  /-- `X.CMD cmd` (45_transport_exchange.md R280). -/
  | xCmd (cmd : Byte)
  /-- Operation code 0x0, reserved (30_encoding.md R112). -/
  | reserved0
  /-- Operation code 0xF, reserved (R112). -/
  | reservedF
  /-- `EV.RX(b)` (45_transport_exchange.md R261). -/
  | evRx (b : Byte)
  /-- `EV.TXC` (R265). -/
  | evTxc
  /-- The GET_SETTINGS request frame (42_frame_builder.md R170). -/
  | reqGetSettings (payload : List Byte)
  /-- The SET_POWER request frame (R171). -/
  | reqSetPower (payload : List Byte)
  /-- The SET_CHANNEL request frame (R172). -/
  | reqSetChannel (payload : List Byte)
  /-- The SET_FREQUENCY request frame (R173). -/
  | reqSetFrequency (payload : List Byte)
  /-- The SET_MODE request frame (R174). -/
  | reqSetMode (payload : List Byte)
  /-- The GET_SETTINGS_V2 request frame (R175). -/
  | reqGetSettingsV2 (payload : List Byte)
  /-- The GET_SETTINGS_V21 request frame (R176). -/
  | reqGetSettingsV21 (payload : List Byte)
  /-- The GET_SETTINGS response frame, no trailing CRC (43_frame_parser.md R187). -/
  | rspGetSettings (payload : List Byte)
  /-- The SET_POWER response frame (R193). -/
  | rspSetPower (payload : List Byte) (crc : Byte)
  /-- The SET_CHANNEL response frame (R192). -/
  | rspSetChannel (payload : List Byte) (crc : Byte)
  /-- The SET_FREQUENCY response frame (R191). -/
  | rspSetFrequency (payload : List Byte) (crc : Byte)
  /-- The SET_MODE response frame (R194). -/
  | rspSetMode (payload : List Byte) (crc : Byte)
  /-- The GET_SETTINGS_V2 response frame, no trailing CRC (R188). -/
  | rspGetSettingsV2 (payload : List Byte)
  /-- The GET_SETTINGS_V21 response frame (R189). -/
  | rspGetSettingsV21 (payload : List Byte) (crc : Byte)
  /-- A response frame whose command byte is none of the seven ids (R195). -/
  | rspUnknown (rcmd : Byte) (payload : List Byte) (crc : Byte)
deriving DecidableEq, Repr

/-- An instruction as the block meets it: a word on one of its ports (30_encoding.md R110, R113) or the bytes of
one frame on the wire, first byte first (R90, R94, R96). -/
inductive Packet where
  /-- A 12-bit request word on the command port (R110). -/
  | cmd (w : BitVec 12)
  /-- A 9-bit event word on the event port (R113). -/
  | ev (w : BitVec 9)
  /-- An outbound frame, format REQ (R90). -/
  | req (bytes : List Byte)
  /-- A response frame, format RSP or RSPL (R94, R96). -/
  | rsp (bytes : List Byte)
deriving DecidableEq, Repr

/-- Why a packet is no instruction of the table. Every port word is one; only frames can fail. -/
inductive DecodeError where
  /-- Fewer bytes than the frame's fixed part. -/
  | short
  /-- Byte 0 of a request frame is not the pad 0x00 (R90). -/
  | badPad
  /-- The two magic bytes are not 0xAA 0x55 (R90, R94). -/
  | badMagic
  /-- The frame does not end where its length byte says (R92, R97). -/
  | badLength
  /-- A request frame's last byte is not its CRC (R93). -/
  | badCrc
  /-- A request frame's command byte is none of the seven of R100. -/
  | notACommand
deriving DecidableEq, Repr

end Sys2Proof
end

