-- ==== Sys2Proof/Machine/State.lean ====
section
/-! DEFINITION. The state of the block: every register and array of 10_state.md R20, grouped by the unit column of
that table, the control position of R35, and the model's own fields (inputs to come, port answers, the draw counter,
the two OPEN parameters). Plain data throughout. -/

namespace Sys2Proof.Machine

/-- One byte array of 20_memory.md R60: (index, byte) pairs, indices strictly rising. An index not listed has no
value: 70_reset_and_hazards.md R341 says "A model must give these no value". -/
abbrev Memory := List Host.Cell

/-- The canonical form: indices strictly rising. As an unlisted index has no value, no entry can equal it. -/
def Memory.wf : Memory → Bool
  | [] => true
  | [_] => true
  | a :: b :: rest => decide (a.1 < b.1) && Memory.wf (b :: rest)

/-- The four byte arrays (R60): for naming the one a fault is about. -/
inductive Space where
  /-- `Q`, the queue storage `QBUF`. -/
  | queue
  /-- `I`, the payload input `PAYIN`. -/
  | payloadIn
  /-- `T`, the transmit frame buffer `TXBUF`. -/
  | transmit
  /-- `P`, the response payload buffer `PB`. -/
  | payload
deriving DecidableEq, Repr

/-- The Byte Queue (R21 to R23). -/
structure QueueState where
  /-- `QBUF` (R21). -/
  buf : Memory
  /-- `QHEAD`, the slot the next push writes (R22). -/
  head : Nat
  /-- `QTAIL`, the slot the next pop reads (R22). -/
  tail : Nat
  /-- `QFULL` (R23). -/
  full : Bool
deriving DecidableEq, Repr

/-- The builder's registers and arrays (R26, R27). -/
structure BuilderState where
  /-- `CMDIN` (R26). -/
  cmdin : Byte
  /-- `PAYIN` (R26). -/
  payin : Memory
  /-- `PAYLEN` (R26). -/
  paylen : Byte
  /-- `TXBUF` (R27). -/
  txbuf : Memory
  /-- `TXLEN`, 0 or 6..261 (R27). -/
  txlen : BitVec 9
deriving DecidableEq, Repr

/-- The transport driver's registers (R28, R29, R35). -/
structure TransportState where
  /-- `TXDONE`, previous transfer complete (R28). -/
  txdone : Bool
  /-- `TMO`, the decrementing timeout (R29). -/
  tmo : Half
  /-- The transmit index inside `T.SEND` (R35). -/
  txidx : Nat
deriving DecidableEq, Repr

/-- The parser's position (R30). -/
inductive PState where
  /-- `P_IDLE`. -/
  | idle
  /-- `P_SYNC`. -/
  | sync
  /-- `P_CMD`. -/
  | cmd
  /-- `P_LEN`. -/
  | len
  /-- `P_PAY`. -/
  | pay
  /-- `P_CRC`. -/
  | crc
deriving DecidableEq, Repr

/-- The parser's registers (R30 to R32). -/
structure ParserState where
  /-- `PSTATE` (R30). -/
  pstate : PState
  /-- `NDISC` (R30). -/
  ndisc : BitVec 3
  /-- `HAVEAA` (R30). -/
  haveaa : Bool
  /-- `RXCMD` (R31). -/
  rxcmd : Byte
  /-- `RXLEN` (R31). -/
  rxlen : Byte
  /-- `RXCRC` (R31). -/
  rxcrc : Byte
  /-- `PIDX` (R31). -/
  pidx : Byte
  /-- `PB` (R31). -/
  pb : Memory
  /-- `LEGACYOK` (R32). -/
  legacyok : Bool
deriving DecidableEq, Repr

/-- VtxSettings (R33). -/
structure VtxSettings where
  /-- `VER`: 0 none yet, else 1, 2, 3. -/
  ver : BitVec 2
  /-- `CHAN`. -/
  chan : Byte
  /-- `POWER`. -/
  power : Byte
  /-- `MODE`. -/
  mode : Byte
  /-- `FREQ`. -/
  freq : Half
deriving DecidableEq, Repr

/-- The search direction (R34): +1 or -1. -/
inductive Dir where
  /-- +1. -/
  | up
  /-- -1. -/
  | down
deriving DecidableEq, Repr

/-- LinkState (R34). -/
structure LinkState where
  /-- `BAUD`. -/
  baud : Half
  /-- `DIR`. -/
  dir : Dir
  /-- `LASTPCT`. -/
  lastpct : Byte
  /-- `SENT`. -/
  sent : Half
  /-- `RECV`. -/
  recv : Half
deriving DecidableEq, Repr

/-- The sequencer's states (R35). -/
inductive XState where
  /-- `IDLE`. -/
  | idle
  /-- `SEND`. -/
  | send
  /-- `AWAIT_ECHO`. -/
  | awaitEcho
  /-- `AWAIT_RESPONSE`. -/
  | awaitResponse
  /-- `DONE`. -/
  | done
deriving DecidableEq, Repr

/-- ExchangeOutcome, the six outcomes (60_exceptions.md R300). -/
inductive ExchangeOutcome where
  /-- A response was decoded. -/
  | success
  /-- "no byte/ready-flag within bound". -/
  | timeout
  /-- "half-duplex self-echo diverged". -/
  | echoMismatch
  /-- "trailing checksum disagreement". -/
  | crcMismatch
  /-- The magic was not found within the tolerated discards. -/
  | invalidMagic
  /-- "unrecognized response command id". -/
  | unknownCommand
deriving DecidableEq, Repr

/-- The sequencer's registers (R35, R36). -/
structure SequencerState where
  /-- `XSTATE` (R35). -/
  xstate : XState
  /-- `EIDX`, the index of the next frame byte to match (R35). -/
  eidx : BitVec 9
  /-- `OUTCOME` (R36). -/
  outcome : ExchangeOutcome
  /-- `OUTVALID` (R36). -/
  outvalid : Bool
deriving DecidableEq, Repr

/-- Agent C's operation in progress and the micro-step it takes next (R2, R12, R110); `idle` when no operation is in
progress. Whether the operation is part of an exchange is what `XSTATE` says (R35). -/
inductive Task where
  /-- No operation in progress. -/
  | idle
  /-- `X.CMD`: the `Q.CLEAR` of 45_transport_exchange.md R281 is next. -/
  | clearQueue
  /-- `X.CMD`: the `BR.STEP` of R282 is next. -/
  | stepBaud
  /-- `X.CMD`: the increment of `SENT` of R283 is next. -/
  | countSent
  /-- `T.SEND` phase A: the next poll of `TXDONE` (R263). -/
  | sendWait
  /-- `T.SEND` phase B: the next poll of `transmit_ready()` (R264). -/
  | sendByte
  /-- `T.RECV`: the next poll of the queue (R266). -/
  | recv
  /-- `T.EXPECT v`: the next poll of the queue (R268). -/
  | expect (v : Byte)
  /-- `X.ECHO`: the next poll of the queue (R275). -/
  | echo
  /-- `FP.PARSE` stages 1 to 4: the next poll of the queue (43_frame_parser.md R181 to R185). -/
  | parse
  /-- `FP.PARSE` stage 5 and the commit (R186 to R196). -/
  | dispatch
deriving DecidableEq, Repr

/-- `RSTAT` of the result port (30_encoding.md R114). -/
inductive RStat where
  /-- `OK`, 0. -/
  | ok
  /-- `NONE`, 1. -/
  | none
  /-- `FAIL`, 2. -/
  | fail
  /-- `REFUSED`, 3. -/
  | refused
deriving DecidableEq, Repr

/-- One answer on the result port (R114); what `RVAL` holds where that rule gives no value: entry 18. -/
structure PortResult where
  rstat : RStat
  rval : Half
deriving DecidableEq, Repr

/-- One output event on the peripheral port (R115). -/
inductive PeriphCall where
  | configureLink (baud : Half) (halfDuplex : Bool)
  | enableTransmit
  | transmitByte (b : Byte)
  | clearOverrunFlag
  | waitForEvent
deriving DecidableEq, Repr

/-- One thing the agents do, in the order they do it (00_scope.md R4, 20_memory.md R70; entry 1). -/
inductive Input where
  /-- A word on the command or the event port, or a frame: an instruction of the table. -/
  | packet (p : Packet)
  /-- The HOST's load of `PAYLEN` and `PAYIN` through the payload-load side (30_encoding.md R110; entry 10). -/
  | load (payload : List Byte)
  /-- The HOST's read of these register numbers in one transition (10_state.md R39). -/
  | read (sels : List Nat)
  /-- Agent C's next micro-step, with ENV's answer to `transmit_ready()` (R115; entry 9). -/
  | poll (ready : Bool)
deriving DecidableEq, Repr

/-- The two OPEN parameters (00_scope.md R7): "the model takes it as an argument". The model's own fields; no step
changes them (entry 5). -/
structure Params where
  /-- `QCAP`, at least 1. -/
  qcap : Nat
  /-- `TX_TIMEOUT`, at least 1, as wide as the `TMO` it is loaded into. -/
  txTimeout : Half
deriving DecidableEq, Repr

/-- The whole state (10_state.md R20 and R35; the last six fields are the model's own, entries 1, 5, 8, 13). -/
structure State where
  queue : QueueState
  /-- `CRCACC` (R25). -/
  crcacc : Byte
  builder : BuilderState
  transport : TransportState
  parser : ParserState
  settings : VtxSettings
  link : LinkState
  seq : SequencerState
  /-- The operation in progress. -/
  task : Task
  /-- The model's: `QCAP` and `TX_TIMEOUT`. -/
  params : Params
  /-- The model's: what the agents do next, first thing first. -/
  inputs : List Input
  /-- The model's: the events emitted on the peripheral port so far, oldest first. -/
  outputs : List PeriphCall
  /-- The model's: the answers given on the result port so far, oldest first. -/
  results : List PortResult
  /-- The model's: the values given on the read port so far, oldest first. -/
  readouts : List Half
  /-- The model's: how many free values have been drawn. -/
  draws : Nat
deriving DecidableEq, Repr

/-- Why the machine stops. -/
inductive Fault where
  /-- Raised by a read of a byte of an array that nothing has written since reset (R341: "a read would be a fault of
  the model"). Safe: the model stops where the hardware would go on with some byte. Entry 7. -/
  | uninitialised (space : Space)
deriving DecidableEq, Repr

/-- Why the machine has no meaning for what it is given. -/
inductive Refusal where
  /-- Raised by an arm of `exec` without a meaning. Safe. No arm of this model raises it. -/
  | notModelled (mnemonic : String)
  /-- Raised by `step` for a packet that is no instruction of the table; only frames can be so. Safe: bytes on the
  wire that form no frame are given as `EV.RX` events. Entry 14. -/
  | undecodable (e : DecodeError)
deriving DecidableEq, Repr

/-- The block after reset (70_reset_and_hazards.md R340), for the given `QCAP` and `TX_TIMEOUT`. `CMDIN`, `RXCMD`,
`RXLEN`, `RXCRC` and the transmit index have no reset value in the spec (R341): DESIGN CHOICE 0, unsafe, entry 6. The
arrays have nothing written (R341; entry 7). -/
def State.resetWith (qcap : Nat) (txTimeout : Half) : State where
  queue := ⟨[], 0, 0, false⟩
  crcacc := 0#8
  builder := ⟨0#8, [], 0#8, [], 0#9⟩
  transport := ⟨true, 0#16, 0⟩
  parser := ⟨.idle, 0#3, false, 0#8, 0#8, 0#8, 0#8, [], false⟩
  settings := ⟨0#2, 0#8, 0#8, 0#8, 0#16⟩
  link := ⟨Config.baudInit, .up, 0#8, 0#16, 0#16⟩
  seq := ⟨.idle, 0#9, .success, false⟩
  task := .idle
  params := ⟨qcap, txTimeout⟩
  inputs := []
  outputs := []
  results := []
  readouts := []
  draws := 0

/-- The block after reset, for the instance of `Config.qcap` and `Config.txTimeout` (DESIGN CHOICE, entry 5). -/
def State.reset : State := State.resetWith Config.qcap Config.txTimeout

end Sys2Proof.Machine
end

