-- ==== Sys2Proof/Machine/Operands.lean ====
section
/-! DEFINITION. Operand assembly: the byte arrays, the codes of enumerated values (30_encoding.md R118), the
big-endian pair (20_memory.md R63), the weird channel (43_frame_parser.md R193), payload bytes (R197). -/

namespace Sys2Proof.Machine

/-! ## The byte arrays (20_memory.md R61) -/

/-- `MemRead(S, i, 1)` (R61); no value where nothing was written (R341). -/
def Memory.read : Memory → Nat → Option Byte
  | [], _ => none
  | (j, v) :: rest, i => if j = i then some v else Memory.read rest i

/-- `MemWrite(S, i, 1, v)` (R61), keeping the indices strictly rising. -/
def Memory.write : Memory → Nat → Byte → Memory
  | [], i, v => [(i, v)]
  | (j, w) :: rest, i, v =>
    if i < j then (i, v) :: (j, w) :: rest
    else if i = j then (i, v) :: rest
    else (j, w) :: Memory.write rest i v

/-- The `n` bytes from index `i` up, if all were written. -/
def Memory.readRange (m : Memory) : Nat → Nat → Option (List Byte)
  | _, 0 => some []
  | i, n + 1 =>
    match m.read i, Memory.readRange m (i + 1) n with
    | some v, some rest => some (v :: rest)
    | _, _ => none

/-- The bytes stored from index `i` up. -/
def Memory.writeRange : Memory → Nat → List Byte → Memory
  | m, _, [] => m
  | m, i, v :: rest => Memory.writeRange (m.write i v) (i + 1) rest

/-! ## Codes of enumerated values (30_encoding.md R114, R118) -/

/-- `XSTATE` on a port (R118). -/
def XState.code : XState → BitVec 3
  | .idle => 0
  | .send => 1
  | .awaitEcho => 2
  | .awaitResponse => 3
  | .done => 4

/-- `PSTATE`'s code (R118); visible on no port. -/
def PState.code : PState → BitVec 3
  | .idle => 0
  | .sync => 1
  | .cmd => 2
  | .len => 3
  | .pay => 4
  | .crc => 5

/-- `OUTCOME`'s code (60_exceptions.md R300). -/
def ExchangeOutcome.code : ExchangeOutcome → BitVec 3
  | .success => 0
  | .timeout => 1
  | .echoMismatch => 2
  | .crcMismatch => 3
  | .invalidMagic => 4
  | .unknownCommand => 5

/-- `DIR` on a port: 0 is +1, 1 is -1 (R118). -/
def Dir.code : Dir → BitVec 1
  | .up => 0
  | .down => 1

/-- `RSTAT`'s code (R114). -/
def RStat.code : RStat → BitVec 2
  | .ok => 0
  | .none => 1
  | .fail => 2
  | .refused => 3

/-- A truth value as a result, 1 or 0 (R114, `T.EXPECT`). -/
def boolHalf (b : Bool) : Half := if b then 1#16 else 0#16

/-! ## Operands of the response decodes -/

/-- The 16-bit value of two bytes, the first the more significant (R63). -/
def bigEndian (hi lo : Byte) : Half := hi ++ lo

/-- The weird channel `(CHAN div 8) * 10 + (CHAN mod 8)`, a natural number, not truncated (R193). -/
def weirdChannel (chan : Byte) : Nat := (chan.toNat / 8) * 10 + chan.toNat % 8

/-- `PB[i]` as the dispatch reads it: inside the received frame the byte received, outside it a free value, a fresh
one at each read (R197; entry 8). -/
def readPayload (i : Nat) (s : State) : Except Fault (Byte × State) :=
  if i < s.parser.rxlen.toNat then
    match s.parser.pb.read i with
    | some v => .ok (v, s)
    | none => .error (.uninitialised .payload)
  else .ok (Config.freeByte s.draws, { s with draws := s.draws + 1 })

/-- ENV's answer to `transmit_ready()` (45_transport_exchange.md R264): the input's where one carries it, else a free
value (entry 9). -/
def transmitReady (ready : Option Bool) (s : State) : Bool × State :=
  match ready with
  | some b => (b, s)
  | none => (Config.freeReady s.draws, { s with draws := s.draws + 1 })

end Sys2Proof.Machine
end

