-- ==== Sys2Proof/Machine/Flags.lean ====
section
/-! DEFINITION. The flags of 10_state.md R37 and what is computed from the state without changing it: the number of
unread bytes (R24), whether an exchange runs, whether a request is accepted (30_encoding.md R112), the STATUS word and
the read port (R39). There are no condition codes (R37). -/

namespace Sys2Proof.Machine

/-- The queue is empty (40_queue.md R133). -/
def QueueState.isEmpty (q : QueueState) : Bool := !q.full && q.head == q.tail

/-- `avail` of a queue of this capacity (R24, R135): `QCAP` if full, else the distance from tail to head modulo
`QCAP`. -/
def QueueState.avail (cap : Nat) (q : QueueState) : Nat :=
  if q.full then cap else (q.head + cap - q.tail) % cap

/-- `avail` (R24, R135). -/
def avail (s : State) : Nat := s.queue.avail s.params.qcap

/-- An exchange is running: `XSTATE` is neither `IDLE` nor `DONE` (R112, R288). -/
def XState.running : XState → Bool
  | .send | .awaitEcho | .awaitResponse => true
  | .idle | .done => false

/-- The operation in progress is a parse (R180). -/
def Task.isParsing : Task → Bool
  | .parse | .dispatch => true
  | .idle | .clearQueue | .stepBaud | .countSent | .sendWait | .sendByte | .recv | .expect _ | .echo => false

/-- A request is accepted: no exchange runs (R112) and no stand-alone operation is in progress ("The port accepts
one request at a time", R110; "there is no queueing of requests", R112: DEDUCED, entry 3). -/
def accepting (s : State) : Bool := !s.seq.xstate.running && s.task == .idle

/-- `STATUS` (R39, register number 0). -/
def statusWord (s : State) : Half :=
  (0#6 ++ BitVec.ofBool s.queue.full ++ BitVec.ofBool s.transport.txdone ++ BitVec.ofBool s.parser.legacyok ++
    s.seq.outcome.code ++ BitVec.ofBool s.seq.outvalid ++ s.seq.xstate.code : BitVec 16)

/-- The read port (R39): the value of a register number, zero-extended to 16 bits; an unlisted number reads as 0.
Indices and `avail` above 65535 keep their low 16 bits (entry 15). -/
def readPort (s : State) : Nat → Half
  | 0 => statusWord s
  | 1 => s.settings.ver.setWidth 16
  | 2 => s.settings.chan.setWidth 16
  | 3 => s.settings.power.setWidth 16
  | 4 => s.settings.mode.setWidth 16
  | 5 => s.settings.freq
  | 6 => s.link.baud
  | 7 => s.link.dir.code.setWidth 16
  | 8 => s.link.lastpct.setWidth 16
  | 9 => s.link.sent
  | 10 => s.link.recv
  | 11 => BitVec.ofNat 16 (avail s)
  | 12 => s.crcacc.setWidth 16
  | 13 => BitVec.ofNat 16 s.queue.head
  | 14 => BitVec.ofNat 16 s.queue.tail
  | 15 => s.builder.txlen.setWidth 16
  | _ => 0#16

end Sys2Proof.Machine
end

