-- ==== Sys2Proof/Machine/Crc8.lean ====
section
/-! DEFINITION. The CRC-8 functions of 41_crc.md: pure, shared by the CRC operations, the builder, the parser and
the frame encodings. -/

namespace Sys2Proof.Machine

/-- One shift of R151: left by one, and the polynomial folded in when the bit shifted out was 1. -/
def crc8Shift (c : Byte) : Byte :=
  if c.getLsbD 7 then (c <<< 1) ^^^ Config.crcPoly else c <<< 1

/-- `n` shifts of R151. -/
def crc8Shifts : Nat → Byte → Byte
  | 0, c => c
  | n + 1, c => crc8Shifts n (crc8Shift c)

/-- `crc8_step(c, b)` (R151): the byte is exclusive-ored in first, eight shifts follow. -/
def crc8Step (c b : Byte) : Byte := crc8Shifts 8 (c ^^^ b)

/-- `crc8_range(s, m)` (R153). -/
def crc8Range (s : Byte) (m : List Byte) : Byte := m.foldl crc8Step s

end Sys2Proof.Machine
end

