-- ==== Sys2Proof/Machine/Frame.lean ====
section
/-! DEFINITION. The bytes of the wire frames (30_encoding.md R90 to R97): pure functions, used by the builder, the
decoder and the encoder. -/

namespace Sys2Proof.Machine

/-- The command byte of a request frame, `((cmd << 1) | 1) mod 256` (R91). -/
def cmdByte (cmd : Byte) : Byte := (cmd <<< 1) ||| 1#8

/-- The length byte (R92). -/
def lengthByte (payload : List Byte) : Byte := BitVec.ofNat 8 payload.length

/-- The bytes a request's CRC covers: from the first magic byte through the payload (R93). -/
def requestBody (cmd : Byte) (payload : List Byte) : List Byte :=
  Config.magic0 :: Config.magic1 :: cmdByte cmd :: lengthByte payload :: payload

/-- The CRC byte of a request frame (R93). -/
def requestCrc (cmd : Byte) (payload : List Byte) : Byte := crc8Range Config.crcSeed (requestBody cmd payload)

/-- A frame of format REQ (R90). -/
def requestFrame (cmd : Byte) (payload : List Byte) : List Byte :=
  Config.pad :: (requestBody cmd payload ++ [requestCrc cmd payload])

/-- Whether a response with this command byte carries no trailing CRC (R96): exactly the ids 0x01 and 0x09. -/
def isLegacyId (rcmd : Byte) : Bool := rcmd == Config.cmdGetSettings || rcmd == Config.cmdGetSettingsV2

/-- The running CRC of a response over command byte, length byte and payload (R95). -/
def responseCrc (rcmd : Byte) (payload : List Byte) : Byte :=
  crc8Range Config.rxcrcSeed (rcmd :: lengthByte payload :: payload)

/-- A frame of format RSPL: no CRC byte (R96). -/
def legacyFrame (rcmd : Byte) (payload : List Byte) : List Byte :=
  Config.magic0 :: Config.magic1 :: rcmd :: lengthByte payload :: payload

/-- A frame of format RSP with the CRC byte it carries (R94). -/
def responseFrame (rcmd : Byte) (payload : List Byte) (crc : Byte) : List Byte :=
  legacyFrame rcmd payload ++ [crc]

end Sys2Proof.Machine
end

