-- ==== Sys2Proof/Machine/Ops.lean ====
section
/-! DEFINITION. The named operations the meanings are made of: the ports, the Byte Queue, raising an outcome (the
block's exception entry, 60_exceptions.md R304) and ending an exchange (its return, R309), the polls of the waits, and
the entries of the multi-step operations. -/

namespace Sys2Proof.Machine

/-- The outcome of a step, from an operation that may meet an unwritten byte. -/
def toOutcome : Except Fault State → Host.Outcome State Fault Refusal
  | .ok s => .next s
  | .error f => .fault f

/-! ## Ports -/

/-- `emit` an output event on the peripheral port (00_scope.md R9, 30_encoding.md R115). -/
def State.emit (s : State) (c : PeriphCall) : State := { s with outputs := s.outputs ++ [c] }

/-- An answer on the result port (R114). -/
def State.answer (s : State) (r : PortResult) : State := { s with results := s.results ++ [r] }

/-- A refused request: REFUSED on the result port, nothing else (R10, R112). The `RVAL` of 0 beside it is in no rule
(R114 gives values for `OK` and `FAIL` only): DESIGN CHOICE, unsafe, entry 18. -/
def State.refuse (s : State) : State := s.answer ⟨.refused, 0#16⟩

/-- The end of an operation with `OK` and this value (R114); no operation is in progress any more. -/
def finish (v : Half) (s : State) : State := { s with task := .idle, results := s.results ++ [⟨.ok, v⟩] }

/-- A command-port request: its operation where a request is accepted, else refused (R112, R288). -/
def request (s : State) (body : State → Except Fault State) : Host.Outcome State Fault Refusal :=
  if accepting s then toOutcome (body s) else .next s.refuse

/-! ## The Byte Queue (40_queue.md) -/

/-- `Q.PUSH(b)` (R131), drop-oldest on a full queue (R132). -/
def push (b : Byte) (s : State) : State :=
  let q := s.queue
  let head' := (q.head + 1) % s.params.qcap
  let tail' := if q.full then (q.tail + 1) % s.params.qcap else q.tail
  { s with queue := { buf := q.buf.write q.head b, head := head', tail := tail', full := head' == tail' } }

/-- `Q.POP` (R133): the oldest unread byte, or none and no change on an empty queue (R134). -/
def pop (s : State) : Except Fault (Option Byte × State) :=
  let q := s.queue
  if q.isEmpty then .ok (none, s)
  else
    match q.buf.read q.tail with
    | none => .error (.uninitialised .queue)
    | some v => .ok (some v, { s with queue := { q with tail := (q.tail + 1) % s.params.qcap, full := false } })

/-- `Q.CLEAR` (R136): both indices and the flag to 0; the storage is not written. -/
def clearQueue (s : State) : State := { s with queue := { s.queue with head := 0, tail := 0, full := false } }

/-! ## Raising an outcome, and ending an exchange -/

/-- `raise o` (60_exceptions.md R304): the operation in progress ends. Inside an exchange the failure exit of
45_transport_exchange.md R287 returns `XSTATE` to `IDLE` and records the outcome; stand-alone, `XSTATE`, `OUTCOME` and
`OUTVALID` are not touched. A parse leaves `PSTATE` at `P_IDLE` (43_frame_parser.md R198). The caller gets `FAIL`
and the code in `RVAL[2:0]` (30_encoding.md R114); `RVAL[15:3]` at 0 is in no rule: DESIGN CHOICE, unsafe, entry 18. -/
def raise (o : ExchangeOutcome) (s : State) : State :=
  { s with
    parser := if s.task.isParsing then { s.parser with pstate := .idle } else s.parser
    seq := if s.seq.xstate.running then { s.seq with xstate := .idle, outcome := o, outvalid := true } else s.seq
    task := .idle
    results := s.results ++ [⟨.fail, o.code.setWidth 16⟩] }

/-- The commit of 43_frame_parser.md R196: the settings, the receive counter, `PSTATE`, and inside an exchange the
step into `DONE` with outcome Success (45_transport_exchange.md R286), one transition; the caller gets `OK`, 0. -/
def commit (v : VtxSettings) (s : State) : State :=
  { s with
    settings := v
    link := { s.link with recv := s.link.recv + 1#16 }
    parser := { s.parser with pstate := .idle }
    seq := if s.seq.xstate.running then { s.seq with xstate := .done, outcome := .success, outvalid := true } else s.seq
    task := .idle
    results := s.results ++ [⟨.ok, 0#16⟩] }

/-! ## Waits -/

/-- One failed poll counted (`TMO <- TMO - 1`, R263, R264, R266). -/
def countDown (s : State) : State := { s with transport := { s.transport with tmo := s.transport.tmo - 1#16 } }

/-- A failed poll of `TXDONE` or of the queue: Timeout when the count is used up, else `wait_for_event()` (R263,
R266, R269). -/
def failedPoll (s : State) : State :=
  let t := countDown s
  if t.transport.tmo = 0#16 then raise .timeout t else t.emit .waitForEvent

/-- A failed poll of `transmit_ready()`: Timeout when the count is used up (R264); no `wait_for_event()` there. -/
def failedReadyPoll (s : State) : State :=
  let t := countDown s
  if t.transport.tmo = 0#16 then raise .timeout t else t

/-- One poll of a receive (R266): the byte popped goes to `onByte`, in the same transition. -/
def pollQueue (s : State) (onByte : Byte → State → Except Fault State) : Except Fault State :=
  match pop s with
  | .error f => .error f
  | .ok (some v, t) => onByte v t
  | .ok (none, t) => .ok (failedPoll t)

/-- `TMO <- RX_TIMEOUT`, the start of a receive (R266). -/
def loadRxTimeout (s : State) : State := { s with transport := { s.transport with tmo := Config.rxTimeout } }

/-- `TMO <- TX_TIMEOUT`, the start of a send wait (R263, R264). -/
def loadTxTimeout (s : State) : State := { s with transport := { s.transport with tmo := s.params.txTimeout } }

/-! ## Entries of the multi-step operations -/

/-- `T.SEND` begins with phase A (R262, R263). -/
def startSend (s : State) : State := { loadTxTimeout s with task := .sendWait }

/-- `X.ECHO` begins (R275): `EIDX <- 0`. -/
def startEcho (s : State) : State := { loadRxTimeout s with seq := { s.seq with eidx := 0#9 }, task := .echo }

/-- `FP.PARSE` begins with stage 1 (43_frame_parser.md R180, R181). -/
def startParse (s : State) : State :=
  { loadRxTimeout s with parser := { s.parser with pstate := .sync, ndisc := 0#3, haveaa := false }, task := .parse }

end Sys2Proof.Machine
end

