-- ==== Sys2Proof/Machine/Baud.lean ====
section
/-! DEFINITION. The Baud-Rate Controller (44_baud.md R230 to R238). -/

namespace Sys2Proof.Machine

/-- The success percentage (R231): `(RECV * 100) div SENT` without truncation, 0 when nothing was sent. -/
def successPct (l : LinkState) : Nat := if l.sent = 0#16 then 0 else l.recv.toNat * 100 / l.sent.toNat

/-- The warm-up length (R232): no prior baseline means `LASTPCT = 0`. -/
def warmupLength (l : LinkState) : Nat := if l.lastpct = 0#8 then Config.warmNoBase else Config.warmBase

/-- The percentage as `LASTPCT` stores it, saturating at 255 (R237). -/
def storedPct (pct : Nat) : Byte := BitVec.ofNat 8 (min pct 255)

/-- The other direction. -/
def Dir.flip : Dir → Dir
  | .up => .down
  | .down => .up

/-- The next step in this direction would leave `[BAUD_MIN, BAUD_MAX]` (R235), on integers. -/
def leavesRange (d : Dir) (baud : Half) : Bool :=
  match d with
  | .up => Config.baudMax < baud.toNat + Config.baudStep
  | .down => baud.toNat < Config.baudMin + Config.baudStep

/-- The direction after the degradation flip (R234) and the clamp (R235). -/
def nextDir (pct : Nat) (l : LinkState) : Dir :=
  let d := if pct < l.lastpct.toNat then l.dir.flip else l.dir
  if leavesRange d l.baud then d.flip else d

/-- `BAUD + 50 * d` (R236). -/
def movedBaud (d : Dir) (baud : Half) : Half :=
  match d with
  | .up => baud + BitVec.ofNat 16 Config.baudStep
  | .down => baud - BitVec.ofNat 16 Config.baudStep

/-- `BR.RECONF`'s effect (R238): the link is configured at `BAUD`; no register changes. The settle delay has no step
(R239). -/
def reconfigure (s : State) : State := s.emit (.configureLink s.link.baud true)

/-- One invocation of the controller (R230), without its answer. -/
def baudStep (s : State) : State :=
  let l := s.link
  let pct := successPct l
  if l.sent.toNat < warmupLength l then { s with link := { l with lastpct := storedPct pct } }
  else if pct < Config.pctGood then
    let d := nextDir pct l
    reconfigure { s with link := ⟨movedBaud d l.baud, d, storedPct pct, 0#16, 0#16⟩ }
  else { s with link := { l with lastpct := storedPct pct, sent := 0#16, recv := 0#16 } }

/-- `BR.STEP` (R230). -/
def execBrStep (s : State) : Host.Outcome State Fault Refusal :=
  request s fun s => .ok (finish (baudStep s).link.baud (baudStep s))

/-- `BR.RECONF` (R238). -/
def execBrReconf (s : State) : Host.Outcome State Fault Refusal :=
  request s fun s => .ok (finish s.link.baud (reconfigure s))

end Sys2Proof.Machine
end

