-- ==== Sys2Proof/Machine/Builder.lean ====
section
/-! DEFINITION. The frame builder (42_frame_builder.md R166) and the seven request rows (R170 to R176). -/

namespace Sys2Proof.Machine

/-- The build of R166, without its answer. `ARG` is latched in `CMDIN` (10_state.md R26; DESIGN CHOICE, entry 4). -/
def buildFrame (cmd : Byte) (s : State) : Except Fault State :=
  match s.builder.payin.readRange 0 s.builder.paylen.toNat with
  | none => .error (.uninitialised .payloadIn)
  | some payload =>
    .ok { s with
      crcacc := requestCrc cmd payload
      builder := { s.builder with
        cmdin := cmd
        txbuf := s.builder.txbuf.writeRange 0 (requestFrame cmd payload)
        txlen := BitVec.ofNat 9 (payload.length + 6) } }

/-- `OK(TXLEN)` after a build (R166, 30_encoding.md R114). -/
def finishBuild (r : Except Fault State) : Except Fault State :=
  match r with
  | .error f => .error f
  | .ok s => .ok (finish (s.builder.txlen.setWidth 16) s)

/-- `FB.BUILD cmd` (R166). -/
def execFbBuild (cmd : Byte) (s : State) : Host.Outcome State Fault Refusal :=
  request s fun s => finishBuild (buildFrame cmd s)

/-- The HOST's load of `PAYLEN` and `PAYIN[0..PAYLEN-1]` (10_state.md R26, 30_encoding.md R110). -/
def loadPayload (payload : List Byte) (s : State) : State :=
  { s with builder := { s.builder with
      payin := s.builder.payin.writeRange 0 payload
      paylen := BitVec.ofNat 8 payload.length } }

/-- The load as the HOST presents it: a payload longer than `PAYMAX` is refused (00_scope.md R10; entry 10). -/
def hostLoad (payload : List Byte) (s : State) : State :=
  if payload.length ≤ Config.payMax then loadPayload payload s else s.refuse

/-- A request row: the line `fb.build <command>, payload` of 30_encoding.md R120, which "loads `PAYIN`, `PAYLEN`,
then requests `FB.BUILD`", as one transition (DESIGN CHOICE, entry 11). Where the request is refused the row's load is
dropped with it, `PAYIN` and `PAYLEN` unchanged (DESIGN CHOICE, unsafe, entry 11). -/
def buildRequest (cmd : Byte) (payload : List Byte) (s : State) : Host.Outcome State Fault Refusal :=
  request s fun s =>
    if payload.length ≤ Config.payMax then finishBuild (buildFrame cmd (loadPayload payload s)) else .ok s.refuse

/-- The GET_SETTINGS request (R170). -/
def execReqGetSettings (payload : List Byte) (s : State) : Host.Outcome State Fault Refusal :=
  buildRequest Config.cmdGetSettings payload s

/-- The SET_POWER request (R171). -/
def execReqSetPower (payload : List Byte) (s : State) : Host.Outcome State Fault Refusal :=
  buildRequest Config.cmdSetPower payload s

/-- The SET_CHANNEL request (R172). -/
def execReqSetChannel (payload : List Byte) (s : State) : Host.Outcome State Fault Refusal :=
  buildRequest Config.cmdSetChannel payload s

/-- The SET_FREQUENCY request (R173). -/
def execReqSetFrequency (payload : List Byte) (s : State) : Host.Outcome State Fault Refusal :=
  buildRequest Config.cmdSetFrequency payload s

/-- The SET_MODE request (R174). -/
def execReqSetMode (payload : List Byte) (s : State) : Host.Outcome State Fault Refusal :=
  buildRequest Config.cmdSetMode payload s

/-- The GET_SETTINGS_V2 request (R175). -/
def execReqGetSettingsV2 (payload : List Byte) (s : State) : Host.Outcome State Fault Refusal :=
  buildRequest Config.cmdGetSettingsV2 payload s

/-- The GET_SETTINGS_V21 request (R176). -/
def execReqGetSettingsV21 (payload : List Byte) (s : State) : Host.Outcome State Fault Refusal :=
  buildRequest Config.cmdGetSettingsV21 payload s

end Sys2Proof.Machine
end

