-- ==== Sys2Proof/Machine/Crc.lean ====
section
/-! DEFINITION. The CRC unit's requests (41_crc.md R154, R155). -/

namespace Sys2Proof.Machine

/-- `CRC.INIT` (R154). -/
def execCrcInit (s : State) : Host.Outcome State Fault Refusal :=
  request s fun s => .ok (finish (Config.crcSeed.setWidth 16) { s with crcacc := Config.crcSeed })

/-- `CRC.UPD b` (R155). -/
def execCrcUpd (b : Byte) (s : State) : Host.Outcome State Fault Refusal :=
  request s fun s =>
    let c := crc8Step s.crcacc b
    .ok (finish (c.setWidth 16) { s with crcacc := c })

end Sys2Proof.Machine
end

