-- ==== Sys2Proof/Machine/Events.lean ====
section
/-! DEFINITION. The producer's events (45_transport_exchange.md R260, R261, R265) and the two reserved operation codes
(30_encoding.md R112). -/

namespace Sys2Proof.Machine

/-- A byte was received: pushed, and the overrun flag of the UART cleared (R261). -/
def receiveEvent (b : Byte) (s : State) : State := (push b s).emit .clearOverrunFlag

/-- `EV.RX(b)` (R261). The event port never stalls and answers nothing (R113). -/
def execEvRx (b : Byte) (s : State) : Host.Outcome State Fault Refusal := .next (receiveEvent b s)

/-- `EV.TXC` (R265). -/
def execEvTxc (s : State) : Host.Outcome State Fault Refusal :=
  .next { s with transport := { s.transport with txdone := true } }

/-- The reserved operation code 0x0: refused, no state changes (R112). -/
def execReserved0 (s : State) : Host.Outcome State Fault Refusal := .next s.refuse

/-- The reserved operation code 0xF: refused, no state changes (R112). -/
def execReservedF (s : State) : Host.Outcome State Fault Refusal := .next s.refuse

end Sys2Proof.Machine
end

