-- ==== Sys2Proof/Machine/Exchange.lean ====
section
/-! DEFINITION. The echo verifier (45_transport_exchange.md R275) and the start of an exchange (R280, R281). The
stages that follow are the micro-steps of Consumer.lean (R281 to R287). -/

namespace Sys2Proof.Machine

/-- The echo has matched to its end: stand-alone the answer is `OK` (R275), inside an exchange `XSTATE` moves to
`AWAIT_RESPONSE` and the parse begins (R285, R286). -/
def endEcho (s : State) : State :=
  if s.seq.xstate.running then startParse { s with seq := { s.seq with xstate := .awaitResponse } } else finish 0#16 s

/-- `EIDX` moves to `i`; the next byte is awaited, or the echo is complete (R275). -/
def echoMatched (i : BitVec 9) (s : State) : State :=
  let t := { s with seq := { s.seq with eidx := i } }
  if i.toNat < t.builder.txlen.toNat then loadRxTimeout t else endEcho t

/-- The echo verifier with the byte it received (R275): the first byte may be the pad or the first magic byte, every
later byte must be the frame's. -/
def echoByte (b : Byte) (s : State) : Except Fault State :=
  if s.seq.eidx = 0#9 then
    match s.builder.txbuf.read 0 with
    | none => .error (.uninitialised .transmit)
    | some t0 =>
      if b = t0 then .ok (echoMatched 1#9 s)
      else
        match s.builder.txbuf.read 1 with
        | none => .error (.uninitialised .transmit)
        | some t1 => if b = t1 then .ok (echoMatched 2#9 s) else .ok (raise .echoMismatch s)
  else
    match s.builder.txbuf.read s.seq.eidx.toNat with
    | none => .error (.uninitialised .transmit)
    | some t => if b = t then .ok (echoMatched (s.seq.eidx + 1#9) s) else .ok (raise .echoMismatch s)

/-- `X.ECHO` (R275): refused when nothing was built; else its first poll. -/
def execXEcho (s : State) : Host.Outcome State Fault Refusal :=
  request s fun s => if s.builder.txlen = 0#9 then .ok s.refuse else pollQueue (startEcho s) echoByte

/-- `X.CMD cmd` (R280): the first part of the stage `SEND`, `OUTVALID <- 0 ; XSTATE <- SEND ; FB.BUILD cmd` (R281);
the queue is cleared next. -/
def execXCmd (cmd : Byte) (s : State) : Host.Outcome State Fault Refusal :=
  request s fun s =>
    buildFrame cmd { s with seq := { s.seq with outvalid := false, xstate := .send }, task := .clearQueue }

end Sys2Proof.Machine
end

