-- ==== Sys2Proof/Machine/Parser.lean ====
section
/-! DEFINITION. The frame parser (43_frame_parser.md R180 to R198): what each stage does with the byte it receives,
the dispatch with one decode rule for each response id, and `FP.PARSE`. -/

namespace Sys2Proof.Machine

/-- Stage 1 with the byte received (R181): the magic is found, or the bytes shown not to start it are discarded and
the fourth discard raises InvalidMagic at once. -/
def syncByte (b : Byte) (s : State) : State :=
  let p := s.parser
  if p.haveaa && b == Config.magic1 then
    loadRxTimeout { s with parser := { p with pstate := .cmd, rxcrc := Config.rxcrcSeed } }
  else
    let n := p.ndisc.toNat + (if p.haveaa then 1 else 0) + (if b == Config.magic0 then 0 else 1)
    let t := { s with parser := { p with ndisc := BitVec.ofNat 3 n, haveaa := b == Config.magic0 } }
    if Config.resyncMax < n then raise .invalidMagic t else loadRxTimeout t

/-- Stage 2a with the byte received (R182). -/
def cmdStageByte (b : Byte) (s : State) : State :=
  loadRxTimeout { s with parser := { s.parser with pstate := .len, rxcmd := b, rxcrc := crc8Step s.parser.rxcrc b } }

/-- After the last payload byte: stage 4 is skipped for the two legacy ids (R185). -/
def endPayload (s : State) : State :=
  if isLegacyId s.parser.rxcmd then { s with task := .dispatch }
  else loadRxTimeout { s with parser := { s.parser with pstate := .crc } }

/-- The next payload byte, or the end of stage 3 (R184). -/
def nextPayload (s : State) : State :=
  if s.parser.pidx.toNat < s.parser.rxlen.toNat then loadRxTimeout s else endPayload s

/-- Stage 2b with the byte received, and the entry of stage 3 (R183, R184). -/
def lenStageByte (b : Byte) (s : State) : State :=
  nextPayload { s with parser := { s.parser with
    pstate := .pay, rxlen := b, rxcrc := crc8Step s.parser.rxcrc b, pidx := 0#8 } }

/-- Stage 3 with the byte received (R184). -/
def payStageByte (b : Byte) (s : State) : State :=
  nextPayload { s with parser := { s.parser with
    pb := s.parser.pb.write s.parser.pidx.toNat b
    rxcrc := crc8Step s.parser.rxcrc b
    pidx := s.parser.pidx + 1#8 } }

/-- Stage 4 with the byte received (R185). -/
def crcStageByte (b : Byte) (s : State) : State :=
  if b == s.parser.rxcrc then { s with task := .dispatch } else raise .crcMismatch s

/-- A stage of the parse with the byte it received. `P_IDLE` does not occur while a parse runs; it is read as
`P_SYNC` (DESIGN CHOICE, entry 17). -/
def parseByte (b : Byte) (s : State) : Except Fault State :=
  .ok (match s.parser.pstate with
    | .idle | .sync => syncByte b s
    | .cmd => cmdStageByte b s
    | .len => lenStageByte b s
    | .pay => payStageByte b s
    | .crc => crcStageByte b s)

/-! ## Stage 5: dispatch (R186), one definition for each decode rule -/

/-- The get-settings decode of R187, R188, R189, with the legacy check of R190 first. -/
def decodeGetSettings (ver : BitVec 2) (s : State) : Except Fault State := do
  let (p5, s) ← readPayload 5 s
  let s := { s with parser := { s.parser with legacyok := s.parser.rxcrc == p5 } }
  if Config.legacyCheckFatal && !s.parser.legacyok then return raise .crcMismatch s
  let (p0, s) ← readPayload 0 s
  let (p1, s) ← readPayload 1 s
  let (p2, s) ← readPayload 2 s
  let (p3, s) ← readPayload 3 s
  let (p4, s) ← readPayload 4 s
  return commit ⟨ver, p0, p1, p2, bigEndian p3 p4⟩ s

/-- Response SET_FREQUENCY (R191). -/
def decodeSetFrequency (s : State) : Except Fault State := do
  let (p0, s) ← readPayload 0 s
  let (p1, s) ← readPayload 1 s
  return commit { s.settings with freq := bigEndian p0 p1 } s

/-- Response SET_CHANNEL (R192). -/
def decodeSetChannel (s : State) : Except Fault State := do
  let (p0, s) ← readPayload 0 s
  return commit { s.settings with chan := p0 } s

/-- The new `POWER` of R193, from the five places its text reads the payload: `PB[0]` twice in the first condition,
`PB[1]` as the first case's value, `PB[1]` in the second condition, `PB[0]` as the second case's value. -/
def setPowerValue (chan power p0a p0b p1a p1b p0c : Byte) : Byte :=
  if p0a = chan ∨ p0b.toNat = weirdChannel chan then p1a
  else if p1b = 1#8 then p0c
  else power

/-- Response SET_POWER (R193). Each place that reads outside the frame is a read of its own (R197; entry 8). -/
def decodeSetPower (s : State) : Except Fault State := do
  let (p0a, s) ← readPayload 0 s
  let (p0b, s) ← readPayload 0 s
  let (p1a, s) ← readPayload 1 s
  let (p1b, s) ← readPayload 1 s
  let (p0c, s) ← readPayload 0 s
  return commit
    { s.settings with power := setPowerValue s.settings.chan s.settings.power p0a p0b p1a p1b p0c } s

/-- Response SET_MODE (R194). -/
def decodeSetMode (s : State) : Except Fault State := do
  let (p0, s) ← readPayload 0 s
  return commit { s.settings with mode := p0 } s

/-- A response with any other id (R195, R196): the receive counter, then UnknownCommand. -/
def decodeUnknown (s : State) : Except Fault State :=
  .ok (raise .unknownCommand
    (if Config.unknownCounts then { s with link := { s.link with recv := s.link.recv + 1#16 } } else s))

/-- Stage 5 and the commit (R186, R196): `RXCMD`, unshifted, against the seven ids. -/
def dispatch (s : State) : Except Fault State :=
  let id := s.parser.rxcmd
  if id == Config.cmdGetSettings then decodeGetSettings 1#2 s
  else if id == Config.cmdGetSettingsV2 then decodeGetSettings 2#2 s
  else if id == Config.cmdGetSettingsV21 then decodeGetSettings 3#2 s
  else if id == Config.cmdSetFrequency then decodeSetFrequency s
  else if id == Config.cmdSetChannel then decodeSetChannel s
  else if id == Config.cmdSetPower then decodeSetPower s
  else if id == Config.cmdSetMode then decodeSetMode s
  else decodeUnknown s

/-- `FP.PARSE` (R180): its first poll. -/
def execFpParse (s : State) : Host.Outcome State Fault Refusal :=
  request s fun s => pollQueue (startParse s) parseByte

end Sys2Proof.Machine
end

