-- ==== Sys2Proof/Machine/Queue.lean ====
section
/-! DEFINITION. The Byte Queue's requests on the command port (40_queue.md R133 to R136). The push is agent P's, in
Events.lean: it has no code on the command port (R130, R140). -/

namespace Sys2Proof.Machine

/-- `Q.POP` (R133): `OK` with the oldest unread byte, or `NONE` and no change when the queue is empty (R134). The `RVAL`
of 0 beside `NONE` is in no rule (30_encoding.md R114): DESIGN CHOICE, unsafe, entry 18. -/
def execQPop (s : State) : Host.Outcome State Fault Refusal :=
  request s fun s =>
    match pop s with
    | .error f => .error f
    | .ok (some v, t) => .ok (finish (v.setWidth 16) t)
    | .ok (none, t) => .ok (t.answer ⟨.none, 0#16⟩)

/-- `Q.AVAIL` (R135). -/
def execQAvail (s : State) : Host.Outcome State Fault Refusal :=
  request s fun s => .ok (finish (BitVec.ofNat 16 (avail s)) s)

/-- `Q.CLEAR` (R136). -/
def execQClear (s : State) : Host.Outcome State Fault Refusal :=
  request s fun s => .ok (finish 0#16 (clearQueue s))

end Sys2Proof.Machine
end

