-- ==== Sys2Proof/Machine/Transport.lean ====
section
/-! DEFINITION. The Transport Driver (45_transport_exchange.md R262 to R268). -/

namespace Sys2Proof.Machine

/-- `T.SEND` has transmitted its last byte: stand-alone it answers `OK` (R262), inside an exchange `XSTATE` moves to
`AWAIT_ECHO` and the echo verifier begins (R284, R285). -/
def endSend (s : State) : State :=
  if s.seq.xstate.running then startEcho { s with seq := { s.seq with xstate := .awaitEcho } } else finish 0#16 s

/-- Phase B of `T.SEND`, from the byte at the transmit index on (R264). -/
def nextSendByte (s : State) : State :=
  if s.transport.txidx < s.builder.txlen.toNat then { loadTxTimeout s with task := .sendByte } else endSend s

/-- One poll of phase A (R263): the flag seen set is cleared in the same transition, and `enable_transmit()` follows. -/
def sendWaitPoll (s : State) : State :=
  if s.transport.txdone then
    nextSendByte (State.emit { s with transport := { s.transport with txdone := false, txidx := 0 } } .enableTransmit)
  else failedPoll s

/-- One poll of phase B (R264). -/
def sendBytePoll (ready : Option Bool) (s : State) : Except Fault State :=
  let (isReady, t) := transmitReady ready s
  if isReady then
    match t.builder.txbuf.read t.transport.txidx with
    | none => .error (.uninitialised .transmit)
    | some b =>
      .ok (nextSendByte
        (State.emit { t with transport := { t.transport with txidx := t.transport.txidx + 1 } } (.transmitByte b)))
  else .ok (failedReadyPoll t)

/-- `T.SEND` (R262): refused when nothing was built; else phase A's first poll. -/
def execTSend (s : State) : Host.Outcome State Fault Refusal :=
  request s fun s => if s.builder.txlen = 0#9 then .ok s.refuse else .ok (sendWaitPoll (startSend s))

/-- `T.RECV` has its byte (R266). -/
def recvByte (v : Byte) (s : State) : Except Fault State := .ok (finish (v.setWidth 16) s)

/-- `T.RECV` (R266): its first poll. -/
def execTRecv (s : State) : Host.Outcome State Fault Refusal :=
  request s fun s => pollQueue { loadRxTimeout s with task := .recv } recvByte

/-- `T.EXPECT v` has its byte: 1 if it is `v`, else 0 (R268). -/
def expectByte (v b : Byte) (s : State) : Except Fault State := .ok (finish (boolHalf (b == v)) s)

/-- `T.EXPECT v` (R268): its first poll. -/
def execTExpect (v : Byte) (s : State) : Host.Outcome State Fault Refusal :=
  request s fun s => pollQueue { loadRxTimeout s with task := .expect v } (expectByte v)

end Sys2Proof.Machine
end

