-- ==== Sys2Proof/Machine/Consumer.lean ====
section
/-! DEFINITION. Agent C's next micro-step in the operation in progress (00_scope.md R2, R12): one atomic transition.
The stages of an exchange follow each other here (45_transport_exchange.md R281 to R286). -/

namespace Sys2Proof.Machine

/-- `SENT <- (SENT + 1) mod 65536` (R283), and `T.SEND` begins (R284). -/
def countSent (s : State) : State := startSend { s with link := { s.link with sent := s.link.sent + 1#16 } }

/-- One micro-step of agent C; `ready` is ENV's answer to `transmit_ready()` where an input carries one. Nothing
happens when no operation is in progress. -/
def microStep (ready : Option Bool) (s : State) : Except Fault State :=
  match s.task with
  | .idle => .ok s
  | .clearQueue => .ok { clearQueue s with task := .stepBaud }
  | .stepBaud => .ok { baudStep s with task := .countSent }
  | .countSent => .ok (countSent s)
  | .sendWait => .ok (sendWaitPoll s)
  | .sendByte => sendBytePoll ready s
  | .recv => pollQueue s recvByte
  | .expect v => pollQueue s (expectByte v)
  | .echo => pollQueue s echoByte
  | .parse => pollQueue s parseByte
  | .dispatch => dispatch s

end Sys2Proof.Machine
end

