-- ==== Sys2Proof/Machine/Response.lean ====
section
/-! DEFINITION. The eight response rows (43_frame_parser.md R187 to R195): the frame arrives on the wire and is parsed,
the big-step reading of R200, for the schedule in which agent C takes one micro-step after each byte (DESIGN CHOICE,
entry 12). Every other schedule is reached through `EV.RX`, `FP.PARSE` and micro-steps. -/

namespace Sys2Proof.Machine

/-- The bytes arrive one after the other, each followed by one micro-step of agent C. -/
def feed : List Byte → State → Except Fault State
  | [], s => .ok s
  | b :: rest, s =>
    match microStep none (receiveEvent b s) with
    | .error f => .error f
    | .ok t => feed rest t

/-- A response frame arrives: where agent C has no operation in progress it begins a parse (R180); then the bytes;
then the dispatch, where the parse has come to it. -/
def receiveFrame (frame : List Byte) (s : State) : Except Fault State :=
  match feed frame (if accepting s then startParse s else s) with
  | .error f => .error f
  | .ok t => if t.task = .dispatch then microStep none t else .ok t

/-- The GET_SETTINGS response (R187). -/
def execRspGetSettings (payload : List Byte) (s : State) : Host.Outcome State Fault Refusal :=
  toOutcome (receiveFrame (legacyFrame Config.cmdGetSettings payload) s)

/-- The SET_POWER response (R193). -/
def execRspSetPower (payload : List Byte) (crc : Byte) (s : State) : Host.Outcome State Fault Refusal :=
  toOutcome (receiveFrame (responseFrame Config.cmdSetPower payload crc) s)

/-- The SET_CHANNEL response (R192). -/
def execRspSetChannel (payload : List Byte) (crc : Byte) (s : State) : Host.Outcome State Fault Refusal :=
  toOutcome (receiveFrame (responseFrame Config.cmdSetChannel payload crc) s)

/-- The SET_FREQUENCY response (R191). -/
def execRspSetFrequency (payload : List Byte) (crc : Byte) (s : State) : Host.Outcome State Fault Refusal :=
  toOutcome (receiveFrame (responseFrame Config.cmdSetFrequency payload crc) s)

/-- The SET_MODE response (R194). -/
def execRspSetMode (payload : List Byte) (crc : Byte) (s : State) : Host.Outcome State Fault Refusal :=
  toOutcome (receiveFrame (responseFrame Config.cmdSetMode payload crc) s)

/-- The GET_SETTINGS_V2 response (R188). -/
def execRspGetSettingsV2 (payload : List Byte) (s : State) : Host.Outcome State Fault Refusal :=
  toOutcome (receiveFrame (legacyFrame Config.cmdGetSettingsV2 payload) s)

/-- The GET_SETTINGS_V21 response (R189). -/
def execRspGetSettingsV21 (payload : List Byte) (crc : Byte) (s : State) : Host.Outcome State Fault Refusal :=
  toOutcome (receiveFrame (responseFrame Config.cmdGetSettingsV21 payload crc) s)

/-- A response with any other id (R195). -/
def execRspUnknown (rcmd : Byte) (payload : List Byte) (crc : Byte) (s : State) : Host.Outcome State Fault Refusal :=
  toOutcome (receiveFrame (responseFrame rcmd payload crc) s)

end Sys2Proof.Machine
end

