-- ==== Sys2Proof/Machine/Dispatch.lean ====
section
/-! DEFINITION. The meaning of every instruction: one arm for each constructor of Instr, in the order of
spec/opcode_table.json. -/

namespace Sys2Proof.Machine

def exec (i : Instr) (s : State) : Host.Outcome State Fault Refusal :=
  match i with
  | .qPop => Sys2Proof.Machine.execQPop s
  | .qAvail => Sys2Proof.Machine.execQAvail s
  | .qClear => Sys2Proof.Machine.execQClear s
  | .crcInit => Sys2Proof.Machine.execCrcInit s
  | .crcUpd b => Sys2Proof.Machine.execCrcUpd b s
  | .fbBuild cmd => Sys2Proof.Machine.execFbBuild cmd s
  | .brStep => Sys2Proof.Machine.execBrStep s
  | .brReconf => Sys2Proof.Machine.execBrReconf s
  | .tSend => Sys2Proof.Machine.execTSend s
  | .tRecv => Sys2Proof.Machine.execTRecv s
  | .tExpect v => Sys2Proof.Machine.execTExpect v s
  | .xEcho => Sys2Proof.Machine.execXEcho s
  | .fpParse => Sys2Proof.Machine.execFpParse s
  | .xCmd cmd => Sys2Proof.Machine.execXCmd cmd s
  | .reserved0 => Sys2Proof.Machine.execReserved0 s
  | .reservedF => Sys2Proof.Machine.execReservedF s
  | .evRx b => Sys2Proof.Machine.execEvRx b s
  | .evTxc => Sys2Proof.Machine.execEvTxc s
  | .reqGetSettings payload => Sys2Proof.Machine.execReqGetSettings payload s
  | .reqSetPower payload => Sys2Proof.Machine.execReqSetPower payload s
  | .reqSetChannel payload => Sys2Proof.Machine.execReqSetChannel payload s
  | .reqSetFrequency payload => Sys2Proof.Machine.execReqSetFrequency payload s
  | .reqSetMode payload => Sys2Proof.Machine.execReqSetMode payload s
  | .reqGetSettingsV2 payload => Sys2Proof.Machine.execReqGetSettingsV2 payload s
  | .reqGetSettingsV21 payload => Sys2Proof.Machine.execReqGetSettingsV21 payload s
  | .rspGetSettings payload => Sys2Proof.Machine.execRspGetSettings payload s
  | .rspSetPower payload crc => Sys2Proof.Machine.execRspSetPower payload crc s
  | .rspSetChannel payload crc => Sys2Proof.Machine.execRspSetChannel payload crc s
  | .rspSetFrequency payload crc => Sys2Proof.Machine.execRspSetFrequency payload crc s
  | .rspSetMode payload crc => Sys2Proof.Machine.execRspSetMode payload crc s
  | .rspGetSettingsV2 payload => Sys2Proof.Machine.execRspGetSettingsV2 payload s
  | .rspGetSettingsV21 payload crc => Sys2Proof.Machine.execRspGetSettingsV21 payload crc s
  | .rspUnknown rcmd payload crc => Sys2Proof.Machine.execRspUnknown rcmd payload crc s

end Sys2Proof.Machine
end

