-- ==== Sys2Proof/WellFormed.lean ====
section
/-! DEFINITION. Which instructions the encoding can carry: the length field of a frame is one byte (30_encoding.md
R92, `PAYMAX` of 00_scope.md R7), and the UNKNOWN response is the one whose command byte is none of the seven ids
(R100, R102). Port words have no further condition: their operands are exactly the field's bits. -/

namespace Sys2Proof

/-- The payload fits the one-byte length field. -/
def fitsLength (payload : List Byte) : Bool := payload.length ≤ Config.payMax

/-- The byte is one of the seven command ids of R100, unshifted. -/
def isCommandId (c : Byte) : Bool :=
  c == Config.cmdGetSettings || c == Config.cmdSetPower || c == Config.cmdSetChannel ||
  c == Config.cmdSetFrequency || c == Config.cmdSetMode || c == Config.cmdGetSettingsV2 ||
  c == Config.cmdGetSettingsV21

/-- An instruction the encoding can carry. -/
def Instr.wf : Instr → Bool
  | .qPop | .qAvail | .qClear | .crcInit | .crcUpd _ | .fbBuild _ | .brStep | .brReconf | .tSend | .tRecv
  | .tExpect _ | .xEcho | .fpParse | .xCmd _ | .reserved0 | .reservedF | .evRx _ | .evTxc => true
  | .reqGetSettings p | .reqSetPower p | .reqSetChannel p | .reqSetFrequency p | .reqSetMode p
  | .reqGetSettingsV2 p | .reqGetSettingsV21 p => fitsLength p
  | .rspGetSettings p | .rspGetSettingsV2 p => fitsLength p
  | .rspSetPower p _ | .rspSetChannel p _ | .rspSetFrequency p _ | .rspSetMode p _
  | .rspGetSettingsV21 p _ => fitsLength p
  | .rspUnknown c p _ => fitsLength p && !isCommandId c

end Sys2Proof
end

