-- ==== Sys2Proof/Decode.lean ====
section
/-! DEFINITION. The decoder, from a packet to an instruction or a named error, then the encoder, from an instruction
to its packet, both written from the tables of 30_encoding.md R90, R94, R96, R100, R111, R113. Port words all decode;
a frame decodes exactly when it is a frame of format REQ with one of the seven command bytes and its right CRC, or a
frame of format RSP or RSPL. -/

namespace Sys2Proof

open Sys2Proof.Machine

/-- The operation code, bits 11 to 8 of a request word (R110). -/
def opField (w : BitVec 12) : BitVec 4 := w.extractLsb' 8 4

/-- `ARG`, bits 7 to 0 of a request word (R110). -/
def argField (w : BitVec 12) : Byte := w.extractLsb' 0 8

/-- The table of operation codes (R111, R112); the last line is 0xF. -/
def decodeCommand (w : BitVec 12) : Instr :=
  match (opField w).toNat with
  | 0x0 => .reserved0
  | 0x1 => .qPop
  | 0x2 => .qAvail
  | 0x3 => .qClear
  | 0x4 => .crcInit
  | 0x5 => .crcUpd (argField w)
  | 0x6 => .fbBuild (argField w)
  | 0x7 => .brStep
  | 0x8 => .brReconf
  | 0x9 => .tSend
  | 0xA => .tRecv
  | 0xB => .tExpect (argField w)
  | 0xC => .xEcho
  | 0xD => .fpParse
  | 0xE => .xCmd (argField w)
  | _ => .reservedF

/-- `EV`, bit 8 of an event word, and `DATA`, bits 7 to 0 (R113). -/
def decodeEvent (w : BitVec 9) : Instr :=
  if w.getLsbD 8 then .evTxc else .evRx (w.extractLsb' 0 8)

/-- The request row of a command byte (R91, R100, third column). -/
def requestOf (cb : Byte) (payload : List Byte) : Except DecodeError Instr :=
  if cb == cmdByte Config.cmdGetSettings then .ok (.reqGetSettings payload)
  else if cb == cmdByte Config.cmdSetPower then .ok (.reqSetPower payload)
  else if cb == cmdByte Config.cmdSetChannel then .ok (.reqSetChannel payload)
  else if cb == cmdByte Config.cmdSetFrequency then .ok (.reqSetFrequency payload)
  else if cb == cmdByte Config.cmdSetMode then .ok (.reqSetMode payload)
  else if cb == cmdByte Config.cmdGetSettingsV2 then .ok (.reqGetSettingsV2 payload)
  else if cb == cmdByte Config.cmdGetSettingsV21 then .ok (.reqGetSettingsV21 payload)
  else .error .notACommand

/-- A frame of format REQ (R90): pad, magic, command byte, length, payload, CRC over all but pad and CRC. -/
def decodeRequest : List Byte → Except DecodeError Instr
  | p :: m0 :: m1 :: cb :: len :: rest =>
    if p != Config.pad then .error .badPad
    else if m0 != Config.magic0 || m1 != Config.magic1 then .error .badMagic
    else if rest.length != len.toNat + 1 then .error .badLength
    else if rest.getLastD 0#8 != crc8Range Config.crcSeed (m0 :: m1 :: cb :: len :: rest.dropLast) then .error .badCrc
    else requestOf cb rest.dropLast
  | _ => .error .short

/-- The response row of a raw command id with a trailing CRC (R100, R101): the id is compared unshifted. -/
def responseOf (rc : Byte) (payload : List Byte) (crc : Byte) : Instr :=
  if rc == Config.cmdSetPower then .rspSetPower payload crc
  else if rc == Config.cmdSetChannel then .rspSetChannel payload crc
  else if rc == Config.cmdSetFrequency then .rspSetFrequency payload crc
  else if rc == Config.cmdSetMode then .rspSetMode payload crc
  else if rc == Config.cmdGetSettingsV21 then .rspGetSettingsV21 payload crc
  else .rspUnknown rc payload crc

/-- The response row of a raw command id without trailing CRC (R96). -/
def legacyResponseOf (rc : Byte) (payload : List Byte) : Instr :=
  if rc == Config.cmdGetSettings then .rspGetSettings payload else .rspGetSettingsV2 payload

/-- A frame of format RSP or RSPL (R94, R96, R97). The CRC byte is an operand: the parser, not the decoder, checks
it (43_frame_parser.md R185). -/
def decodeResponse : List Byte → Except DecodeError Instr
  | m0 :: m1 :: rc :: len :: rest =>
    if m0 != Config.magic0 || m1 != Config.magic1 then .error .badMagic
    else if isLegacyId rc then
      if rest.length != len.toNat then .error .badLength else .ok (legacyResponseOf rc rest)
    else if rest.length != len.toNat + 1 then .error .badLength
    else .ok (responseOf rc rest.dropLast (rest.getLastD 0#8))
  | _ => .error .short

/-- The instruction a packet is. -/
def decode : Packet → Except DecodeError Instr
  | .cmd w => .ok (decodeCommand w)
  | .ev w => .ok (decodeEvent w)
  | .req bytes => decodeRequest bytes
  | .rsp bytes => decodeResponse bytes

/-- A request word from its two fields (R110). -/
def commandWord (op : BitVec 4) (arg : Byte) : Packet := .cmd (op ++ arg)

/-- An event word from its two fields (R113). -/
def eventWord (ev : BitVec 1) (data : Byte) : Packet := .ev (ev ++ data)

/-- The packet of an instruction; an ignored field is written as zero. -/
def encode : Instr → Packet
  | .reserved0 => commandWord 0x0#4 0#8
  | .qPop => commandWord 0x1#4 0#8
  | .qAvail => commandWord 0x2#4 0#8
  | .qClear => commandWord 0x3#4 0#8
  | .crcInit => commandWord 0x4#4 0#8
  | .crcUpd b => commandWord 0x5#4 b
  | .fbBuild cmd => commandWord 0x6#4 cmd
  | .brStep => commandWord 0x7#4 0#8
  | .brReconf => commandWord 0x8#4 0#8
  | .tSend => commandWord 0x9#4 0#8
  | .tRecv => commandWord 0xA#4 0#8
  | .tExpect v => commandWord 0xB#4 v
  | .xEcho => commandWord 0xC#4 0#8
  | .fpParse => commandWord 0xD#4 0#8
  | .xCmd cmd => commandWord 0xE#4 cmd
  | .reservedF => commandWord 0xF#4 0#8
  | .evRx b => eventWord 0#1 b
  | .evTxc => eventWord 1#1 0#8
  | .reqGetSettings p => .req (requestFrame Config.cmdGetSettings p)
  | .reqSetPower p => .req (requestFrame Config.cmdSetPower p)
  | .reqSetChannel p => .req (requestFrame Config.cmdSetChannel p)
  | .reqSetFrequency p => .req (requestFrame Config.cmdSetFrequency p)
  | .reqSetMode p => .req (requestFrame Config.cmdSetMode p)
  | .reqGetSettingsV2 p => .req (requestFrame Config.cmdGetSettingsV2 p)
  | .reqGetSettingsV21 p => .req (requestFrame Config.cmdGetSettingsV21 p)
  | .rspGetSettings p => .rsp (legacyFrame Config.cmdGetSettings p)
  | .rspSetPower p crc => .rsp (responseFrame Config.cmdSetPower p crc)
  | .rspSetChannel p crc => .rsp (responseFrame Config.cmdSetChannel p crc)
  | .rspSetFrequency p crc => .rsp (responseFrame Config.cmdSetFrequency p crc)
  | .rspSetMode p crc => .rsp (responseFrame Config.cmdSetMode p crc)
  | .rspGetSettingsV2 p => .rsp (legacyFrame Config.cmdGetSettingsV2 p)
  | .rspGetSettingsV21 p crc => .rsp (responseFrame Config.cmdGetSettingsV21 p crc)
  | .rspUnknown rc p crc => .rsp (responseFrame rc p crc)

/-- The frame of a table word of a frame row. The table gives such a row one byte, the byte it matches on: a raw
response id, else a request's command byte, else an unknown response id. Pad, magic, CRC are filled in, the length
byte and payload are the zeros above (DESIGN CHOICE, entry 14). -/
def tableFrame (b : Byte) : Packet :=
  if isLegacyId b then .rsp (legacyFrame b [])
  else if isCommandId b then .rsp (responseFrame b [] (responseCrc b []))
  else if isCommandId (b >>> 1) && b.getLsbD 0 then .req (requestFrame (b >>> 1) [])
  else .rsp (responseFrame b [] (responseCrc b []))

/-- The packet of a table word. Eight bits are a frame row's byte, nine an event word, more a request word: the
table's bits do not say which port they belong to (DESIGN CHOICE, entry 14). -/
def tablePacket (nbits w : Nat) : Option Packet :=
  if nbits ≤ 8 then (if w < 256 then some (tableFrame (BitVec.ofNat 8 w)) else none)
  else if nbits = 9 then (if w < 512 then some (.ev (BitVec.ofNat 9 w)) else none)
  else if w < 4096 then some (.cmd (BitVec.ofNat 12 w)) else none

/-- The instruction the decoder reads from a table word. -/
def decodeTableWord (nbits w : Nat) : Option Instr :=
  match tablePacket nbits w with
  | none => none
  | some p =>
    match decode p with
    | .ok i => some i
    | .error _ => none

end Sys2Proof
end

