-- ==== Sys2Proof/Machine/Fetch.lean ====
section
/-! DEFINITION. What the block meets next (00_scope.md R4; entry 1): the first input, taken off the list. A packet is
decoded to an instruction; the HOST's loads and reads and agent C's micro-steps are done here. -/

namespace Sys2Proof.Machine

/-- What a step has to do: run an instruction, or answer what is already done. -/
inductive Work where
  | run (i : Instr) (s : State)
  | done (o : Host.Outcome State Fault Refusal)

/-- A read of these register numbers, all in one transition, changing nothing in the block (10_state.md R39). -/
def hostRead (sels : List Nat) (s : State) : State := { s with readouts := s.readouts ++ sels.map (readPort s) }

/-- The next input. With no input left the producer is quiescent (00_scope.md R12): agent C goes on with the
operation in progress, ENV's answers being free values, and with none in progress the block waits unchanged
(70_reset_and_hazards.md R342). -/
def fetch (s : State) : Work :=
  match s.inputs with
  | [] => .done (toOutcome (microStep none s))
  | .packet p :: rest =>
    match decode p with
    | .ok i => .run i { s with inputs := rest }
    | .error e => .done (.refused (.undecodable e))
  | .load payload :: rest => .done (.next (hostLoad payload { s with inputs := rest }))
  | .read sels :: rest => .done (.next (hostRead sels { s with inputs := rest }))
  | .poll ready :: rest => .done (toOutcome (microStep (some ready) { s with inputs := rest }))

/-- A table word presented as the very next input (entries 1 and 14). -/
def presentWord (s : State) (nbits w : Nat) : State :=
  match tablePacket nbits w with
  | none => s
  | some p => { s with inputs := .packet p :: s.inputs }

end Sys2Proof.Machine
end

