-- ==== Sys2Proof/Safety.lean ====
section
/-! DEFINITION. The terms the claims use: what the queue holds (40_queue.md R139), what a built frame is, a frame ready
to be parsed and its decode written as a relation between settings (43_frame_parser.md R187 to R197), running on a list
of inputs, and the invariants. -/

namespace Sys2Proof.Machine

/-! ## The queue, abstractly -/

/-- The contents of a queue of capacity `cap` are these bytes, oldest first (10_state.md R24, 40_queue.md R139). -/
structure QueueHolds (cap : Nat) (q : QueueState) (bytes : List Byte) : Prop where
  count : q.avail cap = bytes.length
  slots : ∀ i, i < bytes.length → q.buf.read ((q.tail + i) % cap) = bytes[i]?

/-- The invariant of the queue's indices (R22, R24): both below `QCAP`, and `QFULL` only where they meet. -/
structure QueueLegal (cap : Nat) (q : QueueState) : Prop where
  cap_pos : 0 < cap
  head_lt : q.head < cap
  tail_lt : q.tail < cap
  full_eq : q.full = true → q.head = q.tail

/-- The queue of this state is legal and holds exactly these bytes, oldest first. -/
structure Queued (s : State) (bytes : List Byte) : Prop where
  legal : QueueLegal s.params.qcap s.queue
  holds : QueueHolds s.params.qcap s.queue bytes

/-- The abstract push (R139): the byte joins the end; when the list is full its first byte is dropped. -/
def abstractPush (cap : Nat) (q : List Byte) (b : Byte) : List Byte :=
  if q.length < cap then q ++ [b] else q.tail ++ [b]

/-! ## Running on inputs -/

/-- The machine run on exactly these inputs, one step each. -/
def runOn (inputs : List Input) (s : State) : Host.Outcome State Fault Refusal :=
  Host.Core.run Sys2Proof.core inputs.length { s with inputs := inputs }

/-- `n` micro-steps of agent C, ENV's transmitter always ready. -/
def polls (n : Nat) : List Input := List.replicate n (.poll true)

/-- The bytes arrive, one `EV.RX` each. -/
def arrivals (bytes : List Byte) : List Input := bytes.map fun b => .packet (encode (.evRx b))

/-- An instruction as an input. -/
def given (i : Instr) : Input := .packet (encode i)

/-! ## Frames -/

/-- The frame last built stands in `TXBUF`, `TXLEN` is its length (10_state.md R27). -/
structure HoldsFrame (s : State) (frame : List Byte) : Prop where
  length_eq : s.builder.txlen.toNat = frame.length
  bytes : ∀ i, i < frame.length → s.builder.txbuf.read i = frame[i]?

/-- The bytes a request frame's CRC covers, as the table of 30_encoding.md R90 lays them out. -/
def coveredBytes (cmd : Byte) (payload : List Byte) : List Byte :=
  [0xAA#8, 0x55#8, cmd <<< 1 ||| 1#8, BitVec.ofNat 8 payload.length] ++ payload

/-- A request frame, as the table of R90 lays it out. -/
def builtFrame (cmd : Byte) (payload : List Byte) : List Byte :=
  [0x00#8] ++ coveredBytes cmd payload ++ [crc8Range 0x00#8 (coveredBytes cmd payload)]

/-- This payload is loaded: `PAYLEN` bytes of `PAYIN` (10_state.md R26). -/
structure PayloadLoaded (s : State) (payload : List Byte) : Prop where
  length_eq : payload.length = s.builder.paylen.toNat
  bytes : ∀ i, i < payload.length → s.builder.payin.read i = payload[i]?

/-- The frame of a command and a payload was built between two states (42_frame_builder.md R166): `TXLEN`, every byte
of `TXBUF`, `CRCACC`, `CMDIN`. -/
structure FrameBuilt (cmd : Byte) (payload : List Byte) (s t : State) : Prop where
  txlen : t.builder.txlen.toNat = payload.length + 6
  txbuf : ∀ a, t.builder.txbuf.read a =
    if a < payload.length + 6 then (builtFrame cmd payload)[a]? else s.builder.txbuf.read a
  crcacc : t.crcacc = crc8Range 0x00#8 (coveredBytes cmd payload)
  cmdin : t.builder.cmdin = cmd

/-- The seven command ids of R100. -/
def responseIds : List Byte := [0x01#8, 0x02#8, 0x03#8, 0x04#8, 0x05#8, 0x09#8, 0x11#8]

/-- The response frame of an id and a payload: with its CRC, or without for the two legacy ids (30_encoding.md R94,
R96). -/
def responseOfId (id : Byte) (payload : List Byte) : List Byte :=
  if isLegacyId id then legacyFrame id payload else responseFrame id payload (responseCrc id payload)

/-- A parse has begun and waits for its first byte, inside an exchange or stand-alone (43_frame_parser.md R180, R181). -/
structure ParseJustBegun (s : State) : Prop where
  task : s.task = .parse
  pstate : s.parser.pstate = .sync
  ndisc : s.parser.ndisc = 0#3
  haveaa : s.parser.haveaa = false

/-- Nothing is in the queue, and the next byte received is the first of a parse: either the block accepts requests, or
a parse has just begun (the exchange's, or a stand-alone one that still waits for its first byte). -/
structure ReadyForFrame (s : State) : Prop where
  queue : Queued s []
  ready : accepting s = true ∨ ParseJustBegun s

/-- The two magic bytes stand at index `j` and the next (43_frame_parser.md R199). -/
abbrev MagicAt (bytes : List Byte) (j : Nat) : Prop := bytes[j]? = some 0xAA#8 ∧ bytes[j + 1]? = some 0x55#8

/-- The echo of this frame diverges at index `k` (45_transport_exchange.md R275): after the bytes `before`, which matched,
comes `b`. At index 0 that is neither the pad nor the first magic byte; from index 2 on the pad may not have been
echoed. -/
def EchoDiverges (frame before : List Byte) (b : Byte) (k : Nat) : Prop :=
  k < frame.length ∧ frame[k]? ≠ some b ∧ (k = 0 → frame[1]? ≠ some b) ∧
    (before = frame.take k ∨ (2 ≤ k ∧ before = (frame.take k).tail))

/-- A byte the dispatch sees at payload index `i`: the payload's inside the frame, any byte outside it (R197). -/
def SeenAt (payload : List Byte) (i : Nat) (b : Byte) : Prop := i < payload.length → payload[i]? = some b

/-- The get-settings decode (R187 to R189): all five settings, from the payload's first five bytes, the frequency's two
bytes the more significant first (20_memory.md R63). -/
def SettingsRead (ver : BitVec 2) (payload : List Byte) (new : VtxSettings) : Prop :=
  new.ver = ver ∧ SeenAt payload 0 new.chan ∧ SeenAt payload 1 new.power ∧ SeenAt payload 2 new.mode ∧
    ∃ hi lo, SeenAt payload 3 hi ∧ SeenAt payload 4 lo ∧ new.freq.toNat = hi.toNat * 256 + lo.toNat

/-- The set-frequency decode (R191, 20_memory.md R63): `FREQ`, nothing else. -/
def FrequencyRead (payload : List Byte) (old new : VtxSettings) : Prop :=
  new = { old with freq := new.freq } ∧
    ∃ hi lo, SeenAt payload 0 hi ∧ SeenAt payload 1 lo ∧ new.freq.toNat = hi.toNat * 256 + lo.toNat

/-- The set-channel decode (R192): `CHAN`, nothing else. -/
def ChannelRead (payload : List Byte) (old new : VtxSettings) : Prop :=
  ∃ b, SeenAt payload 0 b ∧ new = { old with chan := b }

/-- The set-mode decode (R194): `MODE`, nothing else. -/
def ModeRead (payload : List Byte) (old new : VtxSettings) : Prop :=
  ∃ b, SeenAt payload 0 b ∧ new = { old with mode := b }

/-- The first payload byte is the channel known before, or its weird form (R193), a number that need not fit a byte. -/
def NamesChannel (b0 : Byte) (old : VtxSettings) : Prop :=
  b0 = old.chan ∨ b0.toNat = (old.chan.toNat / 8) * 10 + old.chan.toNat % 8

/-- The set-power decode (R193): nothing but `POWER` changes. With both payload bytes received it is the value of the
first of the three cases that applies; with the first byte alone, where it does not name the channel, it is that byte or
the old value, as the second byte is any (R197). -/
def PowerRead (payload : List Byte) (old new : VtxSettings) : Prop :=
  ∃ power, new = { old with power := power } ∧
    (∀ b0 b1, payload[0]? = some b0 → payload[1]? = some b1 →
      (NamesChannel b0 old → power = b1) ∧
      (¬ NamesChannel b0 old → power = if b1 = 1#8 then b0 else old.power)) ∧
    (∀ b0, payload[0]? = some b0 → ¬ NamesChannel b0 old → power = b0 ∨ power = old.power)

/-- What the response with this id does to the settings (R186 to R194), for the seven ids. -/
def SettingsDecoded (id : Byte) (payload : List Byte) (old new : VtxSettings) : Prop :=
  (id = Config.cmdGetSettings → SettingsRead 1#2 payload new) ∧
  (id = Config.cmdGetSettingsV2 → SettingsRead 2#2 payload new) ∧
  (id = Config.cmdGetSettingsV21 → SettingsRead 3#2 payload new) ∧
  (id = Config.cmdSetFrequency → FrequencyRead payload old new) ∧
  (id = Config.cmdSetChannel → ChannelRead payload old new) ∧
  (id = Config.cmdSetPower → PowerRead payload old new) ∧
  (id = Config.cmdSetMode → ModeRead payload old new)

/-- What receiving one whole response frame of `n` bytes leaves, whatever its outcome: the queue empty again with its
indices `n` on, the parser's registers holding the frame, and every other register as it was but for those the outcome
writes (settings, link, sequencer, result, `LEGACYOK`). -/
structure FrameConsumed (n : Nat) (id : Byte) (payload : List Byte) (s t : State) : Prop where
  queue_not_full : t.queue.full = false
  queue_head : t.queue.head = (s.queue.tail + n) % s.params.qcap
  queue_tail : t.queue.tail = (s.queue.tail + n) % s.params.qcap
  queue_frame : ∀ a, (∀ k, k < n → a ≠ (s.queue.tail + k) % s.params.qcap) →
    t.queue.buf.read a = s.queue.buf.read a
  crcacc : t.crcacc = s.crcacc
  builder : t.builder = s.builder
  txdone : t.transport.txdone = s.transport.txdone
  txidx : t.transport.txidx = s.transport.txidx
  tmo : t.transport.tmo = Config.rxTimeout
  pstate : t.parser.pstate = .idle
  ndisc : t.parser.ndisc = 0#3
  haveaa : t.parser.haveaa = true
  rxcmd : t.parser.rxcmd = id
  rxlen : t.parser.rxlen = lengthByte payload
  rxcrc : t.parser.rxcrc = responseCrc id payload
  pidx : t.parser.pidx = lengthByte payload
  pb : ∀ a, t.parser.pb.read a = if a < payload.length then payload[a]? else s.parser.pb.read a
  task : t.task = .idle
  params : t.params = s.params
  inputs : t.inputs = s.inputs
  outputs : t.outputs = s.outputs ++ List.replicate n .clearOverrunFlag
  readouts : t.readouts = s.readouts

/-- The numbers of the six outcomes, as the table of 60_exceptions.md R300 has them, as `RVAL` carries them
(30_encoding.md R114; the bits above the low three are the model's choice, entry 18). -/
def outcomeNumber : ExchangeOutcome → Half
  | .success => 0#16
  | .timeout => 1#16
  | .echoMismatch => 2#16
  | .crcMismatch => 3#16
  | .invalidMagic => 4#16
  | .unknownCommand => 5#16

/-- How an operation's failure is reported (60_exceptions.md R304, 45_transport_exchange.md R287): inside an exchange
`XSTATE` returns to `IDLE` and the outcome is recorded; stand-alone the sequencer's registers are as they were; the
result port gets `FAIL` and the code (entry 18). -/
def FailedWith (o : ExchangeOutcome) (s t : State) : Prop :=
  t.seq = (if s.seq.xstate.running then { s.seq with xstate := .idle, outcome := o, outvalid := true } else s.seq) ∧
  t.results = s.results ++ [⟨.fail, outcomeNumber o⟩]

/-- How a parse's success is reported (R286): inside an exchange `XSTATE` is `DONE` with outcome Success; stand-alone
the sequencer's registers are as they were; the result port gets `OK`, 0. -/
def Succeeded (s t : State) : Prop :=
  t.seq = (if s.seq.xstate.running then { s.seq with xstate := .done, outcome := .success, outvalid := true } else s.seq) ∧
  t.results = s.results ++ [⟨.ok, 0#16⟩]

/-! ## The CRC, one bit at a time, and the direction as a number -/

/-- One bit of the serial form of 41_crc.md R151. -/
def crc8Bit (b c : Byte) (i : Nat) : Byte :=
  if Bool.xor (c.getLsbD 7) (b.getLsbD i) then (c <<< 1) ^^^ 0xD5#8 else c <<< 1

/-- The serial form of R151: bits 7 down to 0 of the byte. -/
def crc8Serial (c b : Byte) : Byte := [7, 6, 5, 4, 3, 2, 1, 0].foldl (crc8Bit b) c

/-- The value of a direction (10_state.md R34). -/
def Dir.value : Dir → Int
  | .up => 1
  | .down => -1

/-- An evaluation moved the baud rate by one step and configured the link (44_baud.md R240 (c), (d), (f)). -/
structure BaudMoved (s t : State) : Prop where
  by_fifty : t.link.baud.toNat = s.link.baud.toNat + 50 ∨ s.link.baud.toNat = t.link.baud.toNat + 50
  poor : successPct s.link < 70
  evaluation : warmupLength s.link ≤ s.link.sent.toNat
  sent : t.link.sent = 0#16
  recv : t.link.recv = 0#16
  configured : t.outputs = s.outputs ++ [.configureLink t.link.baud true]

/-! ## The transitions within one step -/

/-- One atomic transition of those a response row is made of (entry 12): a byte arrives, a parse begins, agent C takes a
micro-step. -/
inductive RowMove : State → State → Prop where
  | arrival (b : Byte) (s : State) : RowMove s (receiveEvent b s)
  | parseBegins (s : State) (h : accepting s = true) : RowMove s (startParse s)
  | micro (ready : Option Bool) (s t : State) (h : microStep ready s = .ok t) : RowMove s t

/-- The transition from `u` to `v` is one of those that the step from `s` to `t` is made of: the only one, unless the
step's input is a response row. -/
structure WithinStep (s u v t : State) : Prop where
  before : Relation.ReflTransGen RowMove { s with inputs := s.inputs.tail } u
  after : Relation.ReflTransGen RowMove v t
  only : (∀ frame rest, s.inputs ≠ .packet (.rsp frame) :: rest) → u = { s with inputs := s.inputs.tail } ∧ v = t

/-! ## Invariants -/

/-- `BAUD` is in range and on the 50-grid (10_state.md R34, 44_baud.md R240 (a)). -/
def BaudLegal (l : LinkState) : Prop :=
  Config.baudMin ≤ l.baud.toNat ∧ l.baud.toNat ≤ Config.baudMax ∧ (l.baud.toNat - Config.baudMin) % Config.baudStep = 0

/-- The indices of an array are below its size, and it is in canonical form (20_memory.md R60, R61). -/
structure ArrayLegal (m : Memory) (size : Nat) : Prop where
  canonical : m.wf = true
  in_range : ∀ c ∈ m, c.1 < size

/-- Where the sequencer and the operation in progress agree (R35, R110, R281 to R286): the stages of an exchange run
in their states, a stand-alone operation outside an exchange, and no operation means no exchange. -/
def ControlLegal (s : State) : Prop :=
  match s.task with
  | .idle | .recv | .expect _ => s.seq.xstate.running = false
  | .clearQueue | .stepBaud | .countSent => s.seq.xstate = .send
  | .sendWait | .sendByte => s.seq.xstate.running = true → s.seq.xstate = .send
  | .echo => s.seq.xstate.running = true → s.seq.xstate = .awaitEcho
  | .parse | .dispatch => s.seq.xstate.running = true → s.seq.xstate = .awaitResponse

/-- What the operation in progress has at hand: a built frame to send or to verify, and the payload bytes received so
far (10_state.md R27, R31, R35). -/
def ProgressLegal (s : State) : Prop :=
  match s.task with
  | .idle | .recv | .expect _ => True
  | .clearQueue | .stepBaud | .countSent | .sendWait => s.builder.txlen ≠ 0#9
  | .sendByte => s.transport.txidx < s.builder.txlen.toNat
  | .echo => s.seq.eidx.toNat < s.builder.txlen.toNat
  | .parse =>
    s.parser.pstate ≠ .idle ∧
    (s.parser.pstate = .sync → s.parser.ndisc.toNat ≤ Config.resyncMax) ∧
    (s.parser.pstate = .pay → s.parser.pidx.toNat < s.parser.rxlen.toNat ∧
      ∀ i, i < s.parser.pidx.toNat → (s.parser.pb.read i).isSome = true) ∧
    (s.parser.pstate = .crc → ∀ i, i < s.parser.rxlen.toNat → (s.parser.pb.read i).isSome = true)
  | .dispatch =>
    s.parser.pstate ≠ .idle ∧ ∀ i, i < s.parser.rxlen.toNat → (s.parser.pb.read i).isSome = true

/-- The invariant of the block: the OPEN parameters at least 1, legal queue indices, every unread slot written, the
arrays in canonical form and in range, a whole frame in `TXBUF` and a whole payload in `PAYIN`, a legal baud rate, the
discard count at most 5, and control and progress in agreement. -/
structure BlockLegal (s : State) : Prop where
  timeout_pos : s.params.txTimeout ≠ 0#16
  queue : QueueLegal s.params.qcap s.queue
  unread : ∀ i, i < avail s → (s.queue.buf.read ((s.queue.tail + i) % s.params.qcap)).isSome = true
  qbuf : ArrayLegal s.queue.buf s.params.qcap
  payin : ArrayLegal s.builder.payin 255
  txbuf : ArrayLegal s.builder.txbuf 261
  pb : ArrayLegal s.parser.pb 255
  loaded : ∀ i, i < s.builder.paylen.toNat → (s.builder.payin.read i).isSome = true
  txlen : s.builder.txlen = 0#9 ∨ (6 ≤ s.builder.txlen.toNat ∧ s.builder.txlen.toNat ≤ 261)
  built : ∀ i, i < s.builder.txlen.toNat → (s.builder.txbuf.read i).isSome = true
  baud : BaudLegal s.link
  ndisc : s.parser.ndisc.toNat ≤ 5
  pstate : s.task.isParsing = false → s.parser.pstate = .idle
  control : ControlLegal s
  outvalid : s.seq.xstate.running = true → s.seq.outvalid = false
  progress : ProgressLegal s

/-- The session counters as exchanges drive them (10_state.md R34): `RECV <= SENT <= 10`, the last percentage at most
100, and a response still to be counted while one is awaited. -/
structure CountersLegal (s : State) : Prop where
  recv_le : s.link.recv.toNat ≤ s.link.sent.toNat
  sent_le : s.link.sent.toNat ≤ Config.warmBase
  pct_le : s.link.lastpct.toNat ≤ 100
  before_count : s.task = .countSent → s.link.sent.toNat < Config.warmBase
  awaiting : s.seq.xstate.running = true → s.task = .sendWait ∨ s.task = .sendByte ∨ s.task = .echo ∨
    s.task = .parse ∨ s.task = .dispatch → s.link.recv.toNat < s.link.sent.toNat
  exchange_only : s.task = .parse ∨ s.task = .dispatch → s.seq.xstate.running = true
  task_running : s.task = .countSent ∨ s.task = .stepBaud ∨ s.task = .clearQueue → s.seq.xstate = .send

/-- An input that starts no stand-alone parse in this state (the use QS describes, R34): any but `FP.PARSE` and a
response row, and these as well where no request is accepted. -/
def startsNoParse (s : State) : Input → Bool
  | .packet (.cmd w) => opField w != 0xD#4 || !accepting s
  | .packet (.rsp _) => !accepting s
  | .packet (.ev _) | .packet (.req _) | .load _ | .read _ | .poll _ => true

end Sys2Proof.Machine
end

