-- ==== Sys2Proof/Certificates/Slice0/Obligations.lean ====
section
/-! DEFINITION. The statements for the provers. Each docstring names the rule of spec/ it formalises; `(derived)` marks
one that rests on several rules or on a choice of the model, with its log entry. -/

open Sys2Proof Sys2Proof.Machine

/-! ## Encoding -/

/-- (derived) R90, R94, R96, R100, R110, R111, R113: decode and encode agree on every instruction the encoding can
carry, with every operand at every value. -/
def Obligations.EncodeThenDecode : Prop := ∀ i : Instr, i.wf = true → decode (encode i) = .ok i

/-- (derived) R92, R100, R102: whatever packet decodes, its instruction is one the encoding can carry. -/
def Obligations.DecodedIsWellFormed : Prop := ∀ (p : Packet) (i : Instr), decode p = .ok i → i.wf = true

/-- (derived) R90 to R97: a frame that decodes is, byte for byte, the frame of its instruction, so no byte of a frame
is dropped and no two frames are the same instruction. -/
def Obligations.FrameDecodeThenEncode : Prop :=
  (∀ bytes i, decode (.req bytes) = .ok i → encode i = .req bytes) ∧
  (∀ bytes i, decode (.rsp bytes) = .ok i → encode i = .rsp bytes)

/-- R111: the sixteen operation codes, for every value of `ARG`. -/
def Obligations.OperationCodeTable : Prop := ∀ arg : Byte,
  decode (.cmd (0x0#4 ++ arg)) = .ok .reserved0 ∧ decode (.cmd (0x1#4 ++ arg)) = .ok .qPop ∧
  decode (.cmd (0x2#4 ++ arg)) = .ok .qAvail ∧ decode (.cmd (0x3#4 ++ arg)) = .ok .qClear ∧
  decode (.cmd (0x4#4 ++ arg)) = .ok .crcInit ∧ decode (.cmd (0x5#4 ++ arg)) = .ok (.crcUpd arg) ∧
  decode (.cmd (0x6#4 ++ arg)) = .ok (.fbBuild arg) ∧ decode (.cmd (0x7#4 ++ arg)) = .ok .brStep ∧
  decode (.cmd (0x8#4 ++ arg)) = .ok .brReconf ∧ decode (.cmd (0x9#4 ++ arg)) = .ok .tSend ∧
  decode (.cmd (0xA#4 ++ arg)) = .ok .tRecv ∧ decode (.cmd (0xB#4 ++ arg)) = .ok (.tExpect arg) ∧
  decode (.cmd (0xC#4 ++ arg)) = .ok .xEcho ∧ decode (.cmd (0xD#4 ++ arg)) = .ok .fpParse ∧
  decode (.cmd (0xE#4 ++ arg)) = .ok (.xCmd arg) ∧ decode (.cmd (0xF#4 ++ arg)) = .ok .reservedF

/-- R113: the two event words: the first pushes `DATA`, the second ignores it; neither is ever stalled and neither
returns anything. -/
def Obligations.EventPortWords : Prop := ∀ (data : Byte) (s : State),
  decode (.ev (0#1 ++ data)) = .ok (.evRx data) ∧ decode (.ev (1#1 ++ data)) = .ok .evTxc ∧
  (∃ t, exec (.evRx data) s = .next t ∧ t.queue = (push data s).queue ∧ t.results = s.results) ∧
  (∃ t, exec .evTxc s = .next t ∧ t.results = s.results)

/-- (derived) R170 to R176, R187 to R195: frames the spec writes out byte by byte decode to the instruction they stand
for. -/
def Obligations.WrittenFramesDecode : Prop :=
  decode (.req [0x00#8, 0xAA#8, 0x55#8, 0x03#8, 0x00#8, 0x9F#8]) = .ok (.reqGetSettings []) ∧
  decode (.req [0x00#8, 0xAA#8, 0x55#8, 0x05#8, 0x01#8, 0x02#8, 0x14#8]) = .ok (.reqSetPower [0x02#8]) ∧
  decode (.req [0x00#8, 0xAA#8, 0x55#8, 0x07#8, 0x01#8, 0x07#8, 0xEC#8]) = .ok (.reqSetChannel [0x07#8]) ∧
  decode (.req [0x00#8, 0xAA#8, 0x55#8, 0x09#8, 0x02#8, 0x16#8, 0x2C#8, 0x85#8]) =
    .ok (.reqSetFrequency [0x16#8, 0x2C#8]) ∧
  decode (.req [0x00#8, 0xAA#8, 0x55#8, 0x0B#8, 0x01#8, 0x08#8, 0x04#8]) = .ok (.reqSetMode [0x08#8]) ∧
  decode (.req [0x00#8, 0xAA#8, 0x55#8, 0x13#8, 0x00#8, 0x2F#8]) = .ok (.reqGetSettingsV2 []) ∧
  decode (.req [0x00#8, 0xAA#8, 0x55#8, 0x23#8, 0x00#8, 0x2A#8]) = .ok (.reqGetSettingsV21 []) ∧
  decode (.rsp [0xAA#8, 0x55#8, 0x01#8, 0x06#8, 0x07#8, 0x02#8, 0x08#8, 0x16#8, 0x2C#8, 0x99#8]) =
    .ok (.rspGetSettings [0x07#8, 0x02#8, 0x08#8, 0x16#8, 0x2C#8, 0x99#8]) ∧
  decode (.rsp [0xAA#8, 0x55#8, 0x02#8, 0x02#8, 0x00#8, 0x04#8, 0xA7#8]) = .ok (.rspSetPower [0x00#8, 0x04#8] 0xA7#8) ∧
  decode (.rsp [0xAA#8, 0x55#8, 0x03#8, 0x01#8, 0x07#8, 0x0F#8]) = .ok (.rspSetChannel [0x07#8] 0x0F#8) ∧
  decode (.rsp [0xAA#8, 0x55#8, 0x04#8, 0x02#8, 0x16#8, 0x2C#8, 0xEB#8]) =
    .ok (.rspSetFrequency [0x16#8, 0x2C#8] 0xEB#8) ∧
  decode (.rsp [0xAA#8, 0x55#8, 0x05#8, 0x01#8, 0x08#8, 0xD2#8]) = .ok (.rspSetMode [0x08#8] 0xD2#8) ∧
  decode (.rsp [0xAA#8, 0x55#8, 0x09#8, 0x06#8, 0x07#8, 0x02#8, 0x08#8, 0x16#8, 0x2C#8, 0x99#8]) =
    .ok (.rspGetSettingsV2 [0x07#8, 0x02#8, 0x08#8, 0x16#8, 0x2C#8, 0x99#8]) ∧
  decode (.rsp [0xAA#8, 0x55#8, 0x11#8, 0x06#8, 0x07#8, 0x02#8, 0x08#8, 0x16#8, 0x2C#8, 0x99#8, 0xEA#8]) =
    .ok (.rspGetSettingsV21 [0x07#8, 0x02#8, 0x08#8, 0x16#8, 0x2C#8, 0x99#8] 0xEA#8) ∧
  decode (.rsp [0xAA#8, 0x55#8, 0x20#8, 0x02#8, 0x01#8, 0x02#8, 0x2E#8]) =
    .ok (.rspUnknown 0x20#8 [0x01#8, 0x02#8] 0x2E#8)

/-! ## The step -/

/-- (derived) R70, R74, entries 1 and 14: a step whose next input is a packet runs the instruction it decodes to, on
the state without that input. The model's choice (entry 14), in no rule: a packet that is no instruction is refused by
name. -/
def Obligations.StepRunsDecodedInstruction : Prop := ∀ (s : State) (p : Packet) (rest : List Input),
  s.inputs = .packet p :: rest →
  (∀ i, decode p = .ok i → step s = exec i { s with inputs := rest }) ∧
  (∀ e, decode p = .error e → step s = .refused (.undecodable e))

/-- (derived) R26, R70, R110, R342, entries 1, 9, 10 and 18: what the other inputs do. A poll is one micro-step of the
operation in progress; without inputs the operation in progress goes on, and with none the block waits; a payload load
writes `PAYLEN` and the first bytes of `PAYIN` and nothing else, one longer than 255 bytes is refused. -/
def Obligations.StepOnOtherInputs : Prop := ∀ (s : State) (rest : List Input),
  (∀ ready, s.inputs = .poll ready :: rest → step s = toOutcome (microStep (some ready) { s with inputs := rest })) ∧
  (s.inputs = [] → step s = toOutcome (microStep none s)) ∧
  (s.inputs = [] → s.task = .idle → step s = .next s) ∧
  (∀ payload, s.inputs = .load payload :: rest → payload.length ≤ 255 → ∃ t, step s = .next t ∧
    t = { s with inputs := rest, builder := { s.builder with
      payin := t.builder.payin, paylen := BitVec.ofNat 8 payload.length } } ∧
    PayloadLoaded t payload ∧ ∀ a, payload.length ≤ a → t.builder.payin.read a = s.builder.payin.read a) ∧
  (∀ payload, s.inputs = .load payload :: rest → 255 < payload.length →
    step s = .next { s with inputs := rest, results := s.results ++ [⟨.refused, 0#16⟩] })

/-! ## CRC -/

/-- R151: `crc8_step` is the exclusive-or and eight shifts, and equals the bit-at-a-time form; its two corner cases and
its examples. -/
def Obligations.CrcStepSerialForm : Prop :=
  (∀ c b : Byte, crc8Step c b =
    (fun v : Byte => if v.getLsbD 7 then (v <<< 1) ^^^ 0xD5#8 else v <<< 1)^[8] (c ^^^ b)) ∧
  (∀ c b : Byte, crc8Step c b = crc8Serial c b) ∧ (∀ c : Byte, crc8Step c c = 0x00#8) ∧
  crc8Step 0x00#8 0x00#8 = 0x00#8 ∧ crc8Step 0x00#8 0x01#8 = 0xD5#8 ∧ crc8Step 0x00#8 0x80#8 = 0xEF#8 ∧
  crc8Step 0x00#8 0xAA#8 = 0x1D#8 ∧ crc8Step 0x1D#8 0x55#8 = 0xB4#8

/-- R152: the laws (a) to (d) of `crc8_step`, with the example of (c). -/
def Obligations.CrcStepLaws : Prop :=
  (∀ b : Byte, Function.Bijective fun c => crc8Step c b) ∧ (∀ c : Byte, Function.Bijective fun b => crc8Step c b) ∧
  (∀ c1 c2 b1 b2 : Byte, crc8Step (c1 ^^^ c2) (b1 ^^^ b2) = crc8Step c1 b1 ^^^ crc8Step c2 b2) ∧
  crc8Range 0x00#8 [0xAA#8, 0x55#8] = 0xB4#8 ∧ crc8Range 0x00#8 [0x55#8, 0xAA#8] = 0x35#8 ∧
  (∀ (seed : Byte) (m : List Byte), crc8Range seed (m ++ [crc8Range seed m]) = 0x00#8)

/-- R154, R155: `CRC.INIT` and `CRC.UPD b` write `CRCACC`, answer it, and change nothing else. -/
def Obligations.CrcRequests : Prop := ∀ (s : State) (b : Byte), accepting s = true →
  exec .crcInit s = .next { s with crcacc := 0x00#8, results := s.results ++ [⟨.ok, 0#16⟩] } ∧
  exec (.crcUpd b) s = .next { s with
    crcacc := crc8Step s.crcacc b, results := s.results ++ [⟨.ok, (crc8Step s.crcacc b).setWidth 16⟩] }

/-! ## The producer's events -/

/-- (derived) R131, R261: in every state, `EV.RX(b)` writes the slot at the head and no other, moves the head (and, on
a full queue, the tail) by one modulo `QCAP`, computes `QFULL`, emits `clear_overrun_flag()` and changes nothing
else. -/
def Obligations.ReceivedByteIsPushed : Prop := ∀ (s : State) (b : Byte), ∃ t, exec (.evRx b) s = .next t ∧
  t = { s with queue := t.queue, outputs := s.outputs ++ [.clearOverrunFlag] } ∧
  (∀ a, t.queue.buf.read a = if a = s.queue.head then some b else s.queue.buf.read a) ∧
  t.queue.head = (s.queue.head + 1) % s.params.qcap ∧
  t.queue.tail = (if s.queue.full then (s.queue.tail + 1) % s.params.qcap else s.queue.tail) ∧
  t.queue.full = decide (t.queue.head = t.queue.tail)

/-- R265: `EV.TXC` sets `TXDONE` and changes nothing else; with the flag set it changes nothing at all. -/
def Obligations.TransmitCompleteSetsFlag : Prop := ∀ s : State,
  exec .evTxc s = .next { s with transport := { s.transport with txdone := true } } ∧
  (s.transport.txdone = true → exec .evTxc s = .next s)

/-! ## The Byte Queue -/

/-- (derived) R139: the queue's four operations are those of the list of its contents, which never exceeds `QCAP`
bytes; each keeps the queue legal. -/
def Obligations.QueueRefinesList : Prop := ∀ (s : State) (bytes : List Byte), Queued s bytes →
  (∀ b, Queued (push b s) (abstractPush s.params.qcap bytes b)) ∧
  (bytes = [] → pop s = .ok (none, s)) ∧
  (∀ v rest, bytes = v :: rest → ∃ t, pop s = .ok (some v, t) ∧ Queued t rest) ∧
  avail s = bytes.length ∧ bytes.length ≤ s.params.qcap ∧ Queued (clearQueue s) []

/-- R132: a push into a full queue loses exactly the oldest byte, keeps the queue full and reports nothing; after any
pushes from empty the contents are the last `min(n, QCAP)` bytes pushed, in push order. -/
def Obligations.QueueOverflowKeepsNewest : Prop :=
  (∀ (s : State) (oldest b : Byte) (rest : List Byte), Queued s (oldest :: rest) → s.queue.full = true →
    ∃ t, exec (.evRx b) s = .next t ∧ Queued t (rest ++ [b]) ∧ t.queue.full = true ∧
      t.queue.buf.read s.queue.tail = some b ∧
      t = { s with queue := t.queue, outputs := s.outputs ++ [.clearOverrunFlag] }) ∧
  (∀ (s : State) (bytes : List Byte), Queued s [] → ∃ t, runOn (arrivals bytes) s = .next t ∧
    Queued t (bytes.drop (bytes.length - s.params.qcap)) ∧
    t = { s with queue := t.queue, inputs := [],
                 outputs := s.outputs ++ List.replicate bytes.length .clearOverrunFlag })

/-- R133, R134: `Q.POP` returns and removes the oldest unread byte, writing no slot; on an empty queue it answers
`NONE` and changes nothing. The `RVAL` beside `NONE` is in no rule: `AnswerValueChoices`. -/
def Obligations.PopRequest : Prop := ∀ s : State, accepting s = true →
  (s.queue.full = false → s.queue.head = s.queue.tail →
    ∃ v, exec .qPop s = .next { s with results := s.results ++ [⟨.none, v⟩] }) ∧
  (∀ v, (s.queue.full = true ∨ s.queue.head ≠ s.queue.tail) → s.queue.buf.read s.queue.tail = some v →
    exec .qPop s = .next { s with
      queue := { s.queue with tail := (s.queue.tail + 1) % s.params.qcap, full := false },
      results := s.results ++ [⟨.ok, v.setWidth 16⟩] })

/-- (derived) R135, R136, entry 15: `Q.AVAIL` answers the number of unread bytes (its low 16 bits, all of it where
`QCAP` is below 65536) and changes nothing; `Q.CLEAR` zeroes both indices and `QFULL`, and no slot. -/
def Obligations.AvailAndClearRequests : Prop := ∀ s : State, accepting s = true →
  exec .qAvail s = .next { s with results := s.results ++ [⟨.ok, BitVec.ofNat 16
    (if s.queue.full then s.params.qcap else (s.queue.head + s.params.qcap - s.queue.tail) % s.params.qcap)⟩] } ∧
  exec .qClear s = .next { s with queue := { s.queue with head := 0, tail := 0, full := false },
                                  results := s.results ++ [⟨.ok, 0#16⟩] }

/-- R137: a clear and a push take effect in one of two orders: push then clear leaves the queue empty, clear then push
leaves exactly the pushed byte. -/
def Obligations.ClearPushRace : Prop := ∀ (s : State) (bytes : List Byte) (b : Byte), accepting s = true →
  Queued s bytes →
  (∃ t, runOn [given (.evRx b), given .qClear] s = .next t ∧ Queued t []) ∧
  (∃ t, runOn [given .qClear, given (.evRx b)] s = .next t ∧ Queued t [b])

/-! ## The frame builder -/

/-- (derived) R166, R90, R93, entry 4: `FB.BUILD cmd` with a loaded payload writes the whole frame, its length and its
CRC, answers the length, and changes nothing else: no byte of `TXBUF` above the frame, and not the payload. -/
def Obligations.FrameBuildRequest : Prop := ∀ (s : State) (cmd : Byte) (payload : List Byte), accepting s = true →
  PayloadLoaded s payload → ∃ t, exec (.fbBuild cmd) s = .next t ∧ FrameBuilt cmd payload s t ∧
    t = { s with
      crcacc := t.crcacc, results := s.results ++ [⟨.ok, BitVec.ofNat 16 (payload.length + 6)⟩],
      builder := { s.builder with cmdin := cmd, txbuf := t.builder.txbuf, txlen := t.builder.txlen } }

/-- R167: the properties (a) to (d) of a built frame. -/
def Obligations.BuiltFrameProperties : Prop :=
  ∀ (s s' t t' : State) (cmd cmd' : Byte) (payload : List Byte), accepting s = true → accepting s' = true →
    PayloadLoaded s payload → PayloadLoaded s' payload → cmd.toNat % 128 = cmd'.toNat % 128 →
    exec (.fbBuild cmd) s = .next t → exec (.fbBuild cmd') s' = .next t' →
    t.builder.txlen.toNat = s.builder.paylen.toNat + 6 ∧ t.builder.txbuf.read 0 = some 0x00#8 ∧
    (∀ body, body.length = payload.length + 5 → (∀ k, k < body.length → t.builder.txbuf.read (k + 1) = body[k]?) →
      crc8Range 0x00#8 body = 0x00#8) ∧
    t'.builder.txlen = t.builder.txlen ∧
    (∀ a, a < t.builder.txlen.toNat → t'.builder.txbuf.read a = t.builder.txbuf.read a)

/-- (derived) R120, R170 to R176, entries 4 and 11: each of the seven request rows loads its payload and builds its own
frame, answers the frame's length, and changes nothing else (`CMDIN` holds the id: entry 4). -/
def Obligations.RequestRowsBuildTheirFrames : Prop := ∀ (s : State) (payload : List Byte), accepting s = true →
  payload.length ≤ 255 →
  ∀ row ∈ [((0x01#8 : Byte), Instr.reqGetSettings payload), (0x02#8, .reqSetPower payload),
      (0x03#8, .reqSetChannel payload), (0x04#8, .reqSetFrequency payload), (0x05#8, .reqSetMode payload),
      (0x09#8, .reqGetSettingsV2 payload), (0x11#8, .reqGetSettingsV21 payload)],
    encode row.2 = .req (builtFrame row.1 payload) ∧
    ∃ t, exec row.2 s = .next t ∧ FrameBuilt row.1 payload s t ∧ PayloadLoaded t payload ∧
      (∀ a, payload.length ≤ a → t.builder.payin.read a = s.builder.payin.read a) ∧
      t = { s with
        crcacc := t.crcacc, builder := t.builder,
        results := s.results ++ [⟨.ok, BitVec.ofNat 16 (payload.length + 6)⟩] }

/-! ## The Baud-Rate Controller -/

/-- (derived) R230 to R237, with the invariant on `BAUD` of R34: one invocation, on integers as the pseudocode writes
it. -/
def Obligations.BaudStepResult : Prop := ∀ s : State, accepting s = true → BaudLegal s.link →
  let l := s.link
  let pct : Nat := if l.sent.toNat = 0 then 0 else l.recv.toNat * 100 / l.sent.toNat
  let thr : Nat := if l.lastpct = 0#8 then 3 else 10
  let d0 : Int := l.dir.value
  let d1 : Int := if pct < l.lastpct.toNat then -d0 else d0
  let d : Int := if (l.baud.toNat : Int) + 50 * d1 > 4950 ∨ (l.baud.toNat : Int) + 50 * d1 < 4650 then -d1 else d1
  ∃ t, exec .brStep s = .next t ∧
    t = { s with link := t.link, outputs := t.outputs, results := s.results ++ [⟨.ok, t.link.baud⟩] } ∧
    t.link.lastpct.toNat = min pct 255 ∧
    (l.sent.toNat < thr → t.link = { l with lastpct := t.link.lastpct } ∧ t.outputs = s.outputs) ∧
    (thr ≤ l.sent.toNat → t.link.sent = 0#16 ∧ t.link.recv = 0#16) ∧
    (thr ≤ l.sent.toNat → 70 ≤ pct → t.link.baud = l.baud ∧ t.link.dir = l.dir ∧ t.outputs = s.outputs) ∧
    (thr ≤ l.sent.toNat → pct < 70 → t.link.dir.value = d ∧ (t.link.baud.toNat : Int) = l.baud.toNat + 50 * d ∧
      t.outputs = s.outputs ++ [.configureLink t.link.baud true])

/-- (derived) R240 (c), (d), (f), entry 12: of the instructions that are no response row only `BR.STEP`, and of the
micro-steps only the exchange's `BR.STEP`, changes `BAUD`; then by exactly 50, in an evaluation of a poor link, with
one `configure_link`. Of a whole step, whatever its input, the same: one such transition moves `BAUD`, and its
`configure_link` is the step's only one; a response row has other transitions around it, any other step has none. -/
def Obligations.BaudMovesOnlyInBaudStep : Prop := ∀ s t : State, BaudLegal s.link → t.link.baud ≠ s.link.baud →
  (∀ i, (∀ frame, encode i ≠ .rsp frame) → exec i s = .next t → i = .brStep ∧ BaudMoved s t) ∧
  (∀ ready, microStep ready s = .ok t → s.task = .stepBaud ∧ BaudMoved s t) ∧
  (step s = .next t → ∃ u v, WithinStep s u v t ∧ u.link = s.link ∧ BaudMoved u v ∧ v.link.baud = t.link.baud ∧
    ((∃ p rest, s.inputs = .packet p :: rest ∧ decode p = .ok .brStep ∧ exec .brStep u = .next v) ∨
      (u.task = .stepBaud ∧ ∃ ready, microStep ready u = .ok v)) ∧
    ∃ before after, t.outputs = s.outputs ++ before ++ .configureLink t.link.baud true :: after ∧
      ∀ b h, .configureLink b h ∉ before ++ after)

/-- R238: `BR.RECONF` emits `configure_link(BAUD, true)`, answers `BAUD`, and changes no register; while an exchange
runs it is refused. The `RVAL` beside `REFUSED` is in no rule: `AnswerValueChoices`. -/
def Obligations.ReconfigureRequest : Prop := ∀ s : State,
  (accepting s = true → exec .brReconf s = .next { s with
    outputs := s.outputs ++ [.configureLink s.link.baud true], results := s.results ++ [⟨.ok, s.link.baud⟩] }) ∧
  (s.seq.xstate.running = true → ∃ v, exec .brReconf s = .next { s with results := s.results ++ [⟨.refused, v⟩] })

/-! ## The Transport Driver -/

/-- (derived) R262, R263, entries 2 and 18: `T.SEND` is refused with no frame built; else it takes its first poll of
`TXDONE`: set, it is cleared and the transmitter enabled; clear, one poll is used up. -/
def Obligations.SendStarts : Prop := ∀ s : State, accepting s = true →
  (s.builder.txlen = 0#9 → exec .tSend s = .next { s with results := s.results ++ [⟨.refused, 0#16⟩] }) ∧
  (s.builder.txlen ≠ 0#9 → s.transport.txdone = true → exec .tSend s = .next { s with
    transport := { txdone := false, tmo := s.params.txTimeout, txidx := 0 }, task := .sendByte,
    outputs := s.outputs ++ [.enableTransmit] }) ∧
  (s.builder.txlen ≠ 0#9 → s.transport.txdone = false → s.params.txTimeout ≠ 1#16 → exec .tSend s = .next { s with
    transport := { s.transport with tmo := s.params.txTimeout - 1#16 }, task := .sendWait,
    outputs := s.outputs ++ [.waitForEvent] }) ∧
  (s.builder.txlen ≠ 0#9 → s.transport.txdone = false → s.params.txTimeout = 1#16 → exec .tSend s = .next { s with
    transport := { s.transport with tmo := 0#16 }, results := s.results ++ [⟨.fail, 1#16⟩] })

/-- (derived) R262 to R264, entry 2: with the previous transfer complete and ENV always ready, `T.SEND` transmits the
frame's bytes in order, leaves `TXDONE` at 0, answers `OK`, and changes nothing else. -/
def Obligations.SendTransmitsFrame : Prop := ∀ (s : State) (frame : List Byte), accepting s = true →
  HoldsFrame s frame → frame ≠ [] → s.transport.txdone = true →
  runOn (given .tSend :: polls frame.length) s = .next { s with
    transport := { txdone := false, tmo := s.params.txTimeout, txidx := frame.length }, inputs := [],
    outputs := s.outputs ++ .enableTransmit :: frame.map .transmitByte, results := s.results ++ [⟨.ok, 0#16⟩] }

/-- (derived) R263, R301 (a), R287, R289, R353, entries 2 and 18: with `TXDONE` at 0, exactly `TX_TIMEOUT` failed polls
end `T.SEND` in Timeout, with nothing transmitted and `TXDONE` still 0. The same of every wait for `TXDONE` and as many
polls as `TMO` counts: inside an exchange `XSTATE` returns to `IDLE` with the outcome. -/
def Obligations.SendWaitTimesOut : Prop :=
  (∀ s : State, accepting s = true → s.builder.txlen ≠ 0#9 → s.transport.txdone = false → s.params.txTimeout ≠ 0#16 →
    runOn (given .tSend :: polls (s.params.txTimeout.toNat - 1)) s = .next { s with
      transport := { s.transport with tmo := 0#16 }, inputs := [],
      outputs := s.outputs ++ List.replicate (s.params.txTimeout.toNat - 1) .waitForEvent,
      results := s.results ++ [⟨.fail, 1#16⟩] }) ∧
  (∀ s : State, s.task = .sendWait → s.transport.txdone = false → s.transport.tmo ≠ 0#16 →
    runOn (polls s.transport.tmo.toNat) s = .next { s with
      transport := { s.transport with tmo := 0#16 }, task := .idle, inputs := [],
      seq := (if s.seq.xstate.running then { s.seq with xstate := .idle, outcome := .timeout, outvalid := true }
        else s.seq),
      outputs := s.outputs ++ List.replicate (s.transport.tmo.toNat - 1) .waitForEvent,
      results := s.results ++ [⟨.fail, 1#16⟩] })

/-- (derived) R29, R263, R264, R284, R301 (b), R287, entries 2 and 18: while a byte waits for the transmitter, as many
failed polls as `TMO` counts end the send in Timeout: inside an exchange `XSTATE` returns to `IDLE` with the outcome;
the rest is unchanged. Every wait has its own count, whatever `TMO` was: a poll that begins phase B, or transmits a
byte that is not the last, loads `TX_TIMEOUT`; one that transmits the last byte of an exchange's frame begins the echo
with 750. -/
def Obligations.SendByteTimesOut : Prop :=
  (∀ s : State, s.task = .sendByte → s.transport.tmo ≠ 0#16 →
    runOn (List.replicate s.transport.tmo.toNat (.poll false)) s = .next { s with
      transport := { s.transport with tmo := 0#16 }, task := .idle, inputs := [],
      seq := (if s.seq.xstate.running then { s.seq with xstate := .idle, outcome := .timeout, outvalid := true }
        else s.seq),
      results := s.results ++ [⟨.fail, 1#16⟩] }) ∧
  (∀ (s : State) (ready : Bool), s.task = .sendWait → s.transport.txdone = true → s.builder.txlen ≠ 0#9 →
    runOn [.poll ready] s = .next { s with
      transport := { txdone := false, tmo := s.params.txTimeout, txidx := 0 }, task := .sendByte, inputs := [],
      outputs := s.outputs ++ [.enableTransmit] }) ∧
  (∀ (s : State) (b : Byte), s.task = .sendByte → s.builder.txbuf.read s.transport.txidx = some b →
    (s.transport.txidx + 1 < s.builder.txlen.toNat →
      runOn [.poll true] s = .next { s with
        transport := { s.transport with tmo := s.params.txTimeout, txidx := s.transport.txidx + 1 }, inputs := [],
        outputs := s.outputs ++ [.transmitByte b] }) ∧
    (s.builder.txlen.toNat ≤ s.transport.txidx + 1 → s.seq.xstate.running = true →
      runOn [.poll true] s = .next { s with
        transport := { s.transport with tmo := 750#16, txidx := s.transport.txidx + 1 }, task := .echo, inputs := [],
        seq := { s.seq with xstate := .awaitEcho, eidx := 0#9 },
        outputs := s.outputs ++ [.transmitByte b] }))

/-- (derived) R266, entry 2: `T.RECV` returns a byte already in the queue at its first poll; on an empty queue the
first poll fails and the operation waits. -/
def Obligations.ReceiveRequest : Prop := ∀ s : State, accepting s = true →
  (∀ v rest, Queued s (v :: rest) → ∃ t, exec .tRecv s = .next t ∧ Queued t rest ∧ t.queue.buf = s.queue.buf ∧
    t = { s with queue := t.queue, transport := { s.transport with tmo := 750#16 },
                 results := s.results ++ [⟨.ok, v.setWidth 16⟩] }) ∧
  (Queued s [] → exec .tRecv s = .next { s with
    transport := { s.transport with tmo := 749#16 }, task := .recv, outputs := s.outputs ++ [.waitForEvent] })

/-- (derived) R268, entry 2: `T.EXPECT v` consumes the byte and answers 1 if it is `v`, else 0; on an empty queue the
first poll fails and the operation waits. -/
def Obligations.ExpectRequest : Prop := ∀ (s : State) (v : Byte), accepting s = true →
  (∀ b rest, Queued s (b :: rest) → ∃ t, exec (.tExpect v) s = .next t ∧ Queued t rest ∧
    t.queue.buf = s.queue.buf ∧
    t = { s with queue := t.queue, transport := { s.transport with tmo := 750#16 },
                 results := s.results ++ [⟨.ok, if b = v then 1#16 else 0#16⟩] }) ∧
  (Queued s [] → exec (.tExpect v) s = .next { s with
    transport := { s.transport with tmo := 749#16 }, task := .expect v, outputs := s.outputs ++ [.waitForEvent] })

/-- (derived) R266, R267, R268, entry 2: a byte that arrives before the 750th empty poll of `T.RECV` is what it
returns, and of `T.EXPECT v` what it compares: 1 if it is `v`, else 0. -/
def Obligations.ReceiveWaitsForByte : Prop := ∀ (s : State) (b v : Byte) (j : Nat), accepting s = true → Queued s [] →
  j ≤ 748 → ∀ row ∈ [(Instr.tRecv, b.setWidth 16), (.tExpect v, if b = v then 1#16 else 0#16)],
  ∃ t, runOn (given row.1 :: polls j ++ [given (.evRx b), .poll true]) s = .next t ∧ Queued t [] ∧
    (∀ a, a ≠ s.queue.head → t.queue.buf.read a = s.queue.buf.read a) ∧
    t = { s with
      queue := t.queue, transport := { s.transport with tmo := BitVec.ofNat 16 (749 - j) }, inputs := [],
      outputs := s.outputs ++ List.replicate (j + 1) .waitForEvent ++ [.clearOverrunFlag],
      results := s.results ++ [⟨.ok, row.2⟩] }

/-- (derived) R29, R266, R275, R301 (c), R181 to R185, R198, R287, entries 2 and 18: in every operation that waits for
a byte, as many empty polls as `TMO` counts raise Timeout: inside an exchange `XSTATE` returns to `IDLE` with the
outcome, a parse leaves `PSTATE` at `P_IDLE`, and nothing else changes. Every wait has its own count, whatever `TMO`
was: a poll of a parse or of an echo that takes a byte, and after which one more is awaited, leaves `TMO` at 750. -/
def Obligations.ReceiveWaitTimesOut : Prop :=
  (∀ s : State, (s.task = .recv ∨ (∃ v, s.task = .expect v) ∨ s.task = .echo ∨ s.task = .parse) → Queued s [] →
    s.transport.tmo ≠ 0#16 →
    runOn (polls s.transport.tmo.toNat) s = .next { s with
      transport := { s.transport with tmo := 0#16 }, task := .idle, inputs := [],
      parser := (if s.task = .parse then { s.parser with pstate := .idle } else s.parser),
      seq := (if s.seq.xstate.running then { s.seq with xstate := .idle, outcome := .timeout, outvalid := true }
        else s.seq),
      outputs := s.outputs ++ List.replicate (s.transport.tmo.toNat - 1) .waitForEvent,
      results := s.results ++ [⟨.fail, 1#16⟩] }) ∧
  (∀ (s : State) (b : Byte) (rest frame : List Byte) (ready : Bool), Queued s (b :: rest) →
    (s.task = .parse ∨ (s.task = .echo ∧ HoldsFrame s frame ∧ 2 ≤ frame.length ∧ s.seq.eidx.toNat < frame.length)) →
    ∃ t, runOn [.poll ready] s = .next t ∧ Queued t rest ∧
      (t.task = .parse ∨ t.task = .echo → t.transport.tmo = 750#16))

/-! ## The echo verifier -/

/-- (derived) R275, R303, entries 2 and 18: `X.ECHO` is refused with no frame built; else its first poll takes the pad
or the first magic byte, any other byte raises EchoMismatch with `EIDX` 0, and on an empty queue it waits. -/
def Obligations.EchoStarts : Prop := ∀ s : State, accepting s = true →
  (s.builder.txlen = 0#9 → exec .xEcho s = .next { s with results := s.results ++ [⟨.refused, 0#16⟩] }) ∧
  (∀ cmd payload, payload.length ≤ 255 → HoldsFrame s (builtFrame cmd payload) →
    (Queued s [] → exec .xEcho s = .next { s with
      transport := { s.transport with tmo := 749#16 }, seq := { s.seq with eidx := 0#9 }, task := .echo,
      outputs := s.outputs ++ [.waitForEvent] }) ∧
    (∀ b rest, Queued s (b :: rest) → ∃ t, exec .xEcho s = .next t ∧ Queued t rest ∧ t.queue.buf = s.queue.buf ∧
      t = { s with
        queue := t.queue, transport := { s.transport with tmo := 750#16 },
        seq := { s.seq with eidx := if b = 0x00#8 then 1#9 else if b = 0xAA#8 then 2#9 else 0#9 },
        task := if b = 0x00#8 ∨ b = 0xAA#8 then .echo else .idle,
        results := if b = 0x00#8 ∨ b = 0xAA#8 then s.results else s.results ++ [⟨.fail, 2#16⟩] }))

/-- (derived) R275, entry 2: an echo of the whole frame, or of the frame without its pad, passes: `OK`, its bytes
consumed, `EIDX` at the frame's length, nothing else changed. -/
def Obligations.EchoPasses : Prop := ∀ (s : State) (cmd : Byte) (payload stream rest : List Byte),
  accepting s = true → payload.length ≤ 255 → HoldsFrame s (builtFrame cmd payload) →
  (stream = builtFrame cmd payload ∨ stream = (builtFrame cmd payload).tail) → Queued s (stream ++ rest) →
  ∃ t, runOn (given .xEcho :: polls (stream.length - 1)) s = .next t ∧ Queued t rest ∧ t.queue.buf = s.queue.buf ∧
    t = { s with
      queue := t.queue, transport := { s.transport with tmo := 750#16 }, inputs := [],
      seq := { s.seq with eidx := BitVec.ofNat 9 (payload.length + 6) },
      results := s.results ++ [⟨.ok, 0#16⟩] }

/-- (derived) R275, R303, R304, entries 2 and 18: an echo that diverges at index `k` of the frame raises EchoMismatch
there: the bytes up to the diverging one are consumed, `EIDX` is `k`, stand-alone the sequencer's other registers are
untouched. -/
def Obligations.EchoDivergenceStops : Prop :=
  ∀ (s : State) (cmd b : Byte) (payload before rest : List Byte) (k : Nat),
    accepting s = true → payload.length ≤ 255 → HoldsFrame s (builtFrame cmd payload) →
    EchoDiverges (builtFrame cmd payload) before b k → Queued s (before ++ b :: rest) →
    ∃ t, runOn (given .xEcho :: polls before.length) s = .next t ∧ Queued t rest ∧ t.queue.buf = s.queue.buf ∧
      t = { s with
        queue := t.queue, transport := { s.transport with tmo := 750#16 }, inputs := [],
        seq := { s.seq with eidx := BitVec.ofNat 9 k }, results := s.results ++ [⟨.fail, 2#16⟩] }

/-! ## The frame parser -/

/-- (derived) R180, R181, R30, entry 2: `FP.PARSE` starts in `P_SYNC` with nothing discarded; its first poll takes a
byte, or fails on an empty queue. -/
def Obligations.ParseStarts : Prop := ∀ s : State, accepting s = true →
  (∀ b rest, Queued s (b :: rest) → ∃ t, exec .fpParse s = .next t ∧ Queued t rest ∧ t.queue.buf = s.queue.buf ∧
    t = { s with
      queue := t.queue, transport := { s.transport with tmo := 750#16 }, task := .parse,
      parser := { s.parser with
        pstate := .sync, ndisc := if b = 0xAA#8 then 0#3 else 1#3, haveaa := decide (b = 0xAA#8) } }) ∧
  (Queued s [] → exec .fpParse s = .next { s with
    transport := { s.transport with tmo := 749#16 }, task := .parse, outputs := s.outputs ++ [.waitForEvent],
    parser := { s.parser with pstate := .sync, ndisc := 0#3, haveaa := false } })

/-- (derived) R181, R182, R199, entry 2: a magic that first starts at offset `k <= 3` is found after exactly `k + 2`
bytes, with `k` bytes discarded and the running CRC at its seed. -/
def Obligations.ParserResynchronises : Prop := ∀ (s : State) (before rest : List Byte), accepting s = true →
  Queued s (before ++ 0xAA#8 :: 0x55#8 :: rest) → before.length ≤ 3 →
  (∀ j, j < before.length → ¬ MagicAt (before ++ 0xAA#8 :: 0x55#8 :: rest) j) →
  ∃ t, runOn (given .fpParse :: polls (before.length + 1)) s = .next t ∧ Queued t rest ∧
    t.queue.buf = s.queue.buf ∧
    t = { s with
      queue := t.queue, transport := { s.transport with tmo := 750#16 }, task := .parse, inputs := [],
      parser := { s.parser with
        pstate := .cmd, ndisc := BitVec.ofNat 3 before.length, haveaa := true, rxcrc := 0x00#8 } }

/-- (derived) R181, R199, R302, R287, R289, entries 2 and 18: with no magic starting at offsets 0 to 3, InvalidMagic is
raised at the fourth byte, or, where that byte is 0xAA, at the fifth; `NDISC` holds 4, or 5 where the fifth byte is not
0xAA either. So it is after `FP.PARSE` and in a parse that has just begun: inside an exchange `XSTATE` returns to
`IDLE` with the outcome. -/
def Obligations.ParserGivesUpSearch : Prop := ∀ (s : State) (bytes : List Byte),
  Queued s bytes → (∀ j, j ≤ 3 → ¬ MagicAt bytes j) →
  let n : Nat := if bytes[3]? = some 0xAA#8 then 5 else 4
  n ≤ bytes.length →
  ∀ run : List Input, (accepting s = true ∧ run = given .fpParse :: polls (n - 1)) ∨ (ParseJustBegun s ∧ run = polls n) →
  ∃ t, runOn run s = .next t ∧ Queued t (bytes.drop n) ∧ t.queue.buf = s.queue.buf ∧ FailedWith .invalidMagic s t ∧
    t = { s with
      queue := t.queue, transport := { s.transport with tmo := 750#16 }, task := .idle, inputs := [],
      seq := t.seq, results := t.results,
      parser := { s.parser with
        pstate := .idle, haveaa := t.parser.haveaa,
        ndisc := if n = 5 ∧ bytes[4]? ≠ some 0xAA#8 then 5#3 else 4#3 } }

/-- (derived) R180 to R196, R200, R201, entry 2: a queued response frame of any of the seven ids, behind at most three
discarded bytes, parses with Success: exactly its bytes are consumed, the settings are decoded, `RECV` counts it. -/
def Obligations.ParseDecodesQueuedResponse : Prop := ∀ (s : State) (id : Byte) (payload before rest : List Byte),
  accepting s = true → id ∈ responseIds → payload.length ≤ 255 → before.length ≤ 3 →
  Queued s (before ++ responseOfId id payload ++ rest) →
  (∀ j, j < before.length → ¬ MagicAt (before ++ responseOfId id payload ++ rest) j) →
  ∃ t, runOn (given .fpParse :: polls (before.length + (responseOfId id payload).length)) s = .next t ∧
    Queued t rest ∧ t.queue.buf = s.queue.buf ∧ SettingsDecoded id payload s.settings t.settings ∧
    t = { s with
      queue := t.queue, transport := { s.transport with tmo := 750#16 }, settings := t.settings, inputs := [],
      link := { s.link with recv := s.link.recv + 1#16 }, results := s.results ++ [⟨.ok, 0#16⟩], draws := t.draws,
      parser := { t.parser with
        pstate := .idle, ndisc := BitVec.ofNat 3 before.length, haveaa := true, rxcmd := id,
        rxlen := BitVec.ofNat 8 payload.length, rxcrc := responseCrc id payload,
        pidx := BitVec.ofNat 8 payload.length } } ∧
    (id ∈ [0x02#8, 0x03#8, 0x04#8, 0x05#8] → t.parser.legacyok = s.parser.legacyok) ∧
    (id ∈ [0x01#8, 0x09#8, 0x11#8] → 6 ≤ payload.length →
      t.parser.legacyok = decide (payload[5]? = some (responseCrc id payload))) ∧
    (∀ a, t.parser.pb.read a = if a < payload.length then payload[a]? else s.parser.pb.read a)

/-! ## The response rows -/

/-- (derived) R63, R187 to R190, R196, entry 12: the three get-settings responses set `VER` to 1, 2, 3 and decode the
other settings alike, count the response, and record the legacy check where the payload has six bytes. -/
def Obligations.GetSettingsResponses : Prop := ∀ (s : State) (payload : List Byte), ReadyForFrame s →
  payload.length ≤ 255 →
  ∀ row ∈ [((0x01#8 : Byte), (1#2 : BitVec 2), Instr.rspGetSettings payload),
      (0x09#8, 2#2, .rspGetSettingsV2 payload),
      (0x11#8, 3#2, .rspGetSettingsV21 payload (responseCrc 0x11#8 payload))],
    ∃ t, exec row.2.2 s = .next t ∧ FrameConsumed (responseOfId row.1 payload).length row.1 payload s t ∧
      SettingsRead row.2.1 payload t.settings ∧ t.link = { s.link with recv := s.link.recv + 1#16 } ∧
      Succeeded s t ∧
      (6 ≤ payload.length → t.parser.legacyok = decide (payload[5]? = some (responseCrc row.1 payload)))

/-- (derived) R63, R191, R192, R194, R196, entry 12: the set-frequency, set-channel and set-mode responses each write
their own setting and no other, count the response, and leave `LEGACYOK` alone. -/
def Obligations.SingleFieldResponses : Prop := ∀ (s : State) (payload : List Byte), ReadyForFrame s →
  payload.length ≤ 255 →
  (∃ t, exec (.rspSetFrequency payload (responseCrc 0x04#8 payload)) s = .next t ∧
    FrameConsumed (payload.length + 5) 0x04#8 payload s t ∧ FrequencyRead payload s.settings t.settings ∧
    t.link = { s.link with recv := s.link.recv + 1#16 } ∧ Succeeded s t ∧
    t.parser.legacyok = s.parser.legacyok) ∧
  (∃ t, exec (.rspSetChannel payload (responseCrc 0x03#8 payload)) s = .next t ∧
    FrameConsumed (payload.length + 5) 0x03#8 payload s t ∧ ChannelRead payload s.settings t.settings ∧
    t.link = { s.link with recv := s.link.recv + 1#16 } ∧ Succeeded s t ∧
    t.parser.legacyok = s.parser.legacyok) ∧
  (∃ t, exec (.rspSetMode payload (responseCrc 0x05#8 payload)) s = .next t ∧
    FrameConsumed (payload.length + 5) 0x05#8 payload s t ∧ ModeRead payload s.settings t.settings ∧
    t.link = { s.link with recv := s.link.recv + 1#16 } ∧ Succeeded s t ∧
    t.parser.legacyok = s.parser.legacyok)

/-- (derived) R193, R196, R197, R307, entry 12: the set-power response writes `POWER` by the first of the three cases
that applies and no other setting, is a Success in all three, and counts. With the first byte alone, not naming the
channel, `POWER` is that byte or as before. -/
def Obligations.SetPowerResponse : Prop := ∀ (s : State) (payload : List Byte), ReadyForFrame s →
  payload.length ≤ 255 →
  ∃ t, exec (.rspSetPower payload (responseCrc 0x02#8 payload)) s = .next t ∧
    FrameConsumed (payload.length + 5) 0x02#8 payload s t ∧ PowerRead payload s.settings t.settings ∧
    t.link = { s.link with recv := s.link.recv + 1#16 } ∧ Succeeded s t ∧ t.parser.legacyok = s.parser.legacyok

/-- (derived) R195, R196, R306, R102 (a), entries 12 and 18: a response with any other id and its right CRC ends in
UnknownCommand: no setting changes, `RECV` counts it. -/
def Obligations.UnknownResponse : Prop := ∀ (s : State) (rcmd : Byte) (payload : List Byte), ReadyForFrame s →
  payload.length ≤ 255 → rcmd ∉ responseIds →
  ∃ t, exec (.rspUnknown rcmd payload (responseCrc rcmd payload)) s = .next t ∧
    FrameConsumed (payload.length + 5) rcmd payload s t ∧ t.settings = s.settings ∧
    t.link = { s.link with recv := s.link.recv + 1#16 } ∧ FailedWith .unknownCommand s t ∧
    t.parser.legacyok = s.parser.legacyok

/-- (derived) R185, R198, R305, R308, entries 12 and 18: a response of format RSP (any id but 0x01 and 0x09) with a
trailing CRC byte that is not the running CRC ends in CrcMismatch: no setting and no counter changes, nor `LEGACYOK`
nor `TXDONE`. -/
def Obligations.WrongCrcResponses : Prop :=
  ∀ (s : State) (rcmd crc : Byte) (payload : List Byte) (i : Instr), ReadyForFrame s → payload.length ≤ 255 →
    encode i = .rsp ([0xAA#8, 0x55#8, rcmd, BitVec.ofNat 8 payload.length] ++ payload ++ [crc]) → i.wf = true →
    rcmd ≠ 0x01#8 → rcmd ≠ 0x09#8 → crc ≠ responseCrc rcmd payload →
    ∃ t, exec i s = .next t ∧ FrameConsumed (payload.length + 5) rcmd payload s t ∧ t.settings = s.settings ∧
      t.link = s.link ∧ FailedWith .crcMismatch s t ∧ t.parser.legacyok = s.parser.legacyok ∧ t.draws = s.draws

/-- (derived) R180, R200, entries 2 and 12: where the block accepts requests and the queue is empty, a response row is
the run in which its first byte arrives, `FP.PARSE` is requested, every further byte arrives and is polled for, and one
micro-step follows. -/
def Obligations.ResponseRowIsItsRun : Prop := ∀ (s : State) (i : Instr) (first : Byte) (more : List Byte),
  accepting s = true → Queued s [] → s.inputs = [] → encode i = .rsp (first :: more) → i.wf = true →
  exec i s = runOn ([given (.evRx first), given .fpParse] ++
    more.flatMap (fun b => [given (.evRx b), .poll true]) ++ [.poll true]) s

/-! ## The exchange -/

/-- (derived) R280, R281, entries 2 and 4: an accepted `X.CMD cmd` clears `OUTVALID`, enters `SEND` and builds the
frame; nothing else changes, and no answer is given yet. -/
def Obligations.ExchangeStarts : Prop := ∀ (s : State) (cmd : Byte) (payload : List Byte), accepting s = true →
  PayloadLoaded s payload → ∃ t, exec (.xCmd cmd) s = .next t ∧ FrameBuilt cmd payload s t ∧
    t = { s with
      crcacc := t.crcacc, task := .clearQueue, seq := { s.seq with xstate := .send, outvalid := false },
      builder := { s.builder with cmdin := cmd, txbuf := t.builder.txbuf, txlen := t.builder.txlen } }

/-- (derived) R281 to R284, entry 2: the rest of `SEND` before the transmission: the queue is cleared, the baud
controller invoked once, `SENT` incremented after it, and the send begins. -/
def Obligations.ExchangePreparesLink : Prop := ∀ s : State, s.task = .clearQueue →
  runOn (polls 3) s = .next { s with
    queue := { s.queue with head := 0, tail := 0, full := false }, outputs := (baudStep s).outputs,
    link := { (baudStep s).link with sent := (baudStep s).link.sent + 1#16 },
    transport := { s.transport with tmo := s.params.txTimeout }, task := .sendWait, inputs := [] }

/-- (derived) R275, R280 to R286, R289, R290, entries 2 and 4: a whole exchange. With a mirrored echo, its pad echoed
or not, and a response frame of any of the seven ids, behind at most three other bytes, it ends in `DONE` with Success,
the settings decoded, the parser's registers holding the response, `SENT` and `RECV` each one higher than after the
`BR.STEP`, and exactly the frame transmitted. -/
def Obligations.ExchangeSucceeds : Prop :=
  ∀ (s : State) (cmd id : Byte) (request payload before echo : List Byte), accepting s = true →
    PayloadLoaded s request → QueueLegal s.params.qcap s.queue → s.transport.txdone = true →
    id ∈ responseIds → payload.length ≤ 255 → before.length ≤ 3 →
    (∀ j, j < before.length → ¬ MagicAt (before ++ responseOfId id payload) j) →
    request.length + 6 ≤ s.params.qcap → (before ++ responseOfId id payload).length ≤ s.params.qcap →
    (echo = builtFrame cmd request ∨ echo = (builtFrame cmd request).tail) →
    let frame := builtFrame cmd request
    let reply := before ++ responseOfId id payload
    ∃ t, runOn (given (.xCmd cmd) :: polls (4 + frame.length) ++ arrivals echo ++ polls echo.length ++
        arrivals reply ++ polls (reply.length + 1)) s = .next t ∧
      FrameBuilt cmd request s t ∧ SettingsDecoded id payload s.settings t.settings ∧ Queued t [] ∧
      (∀ a, t.parser.pb.read a = if a < payload.length then payload[a]? else s.parser.pb.read a) ∧
      (id ∈ [0x02#8, 0x03#8, 0x04#8, 0x05#8] → t.parser.legacyok = s.parser.legacyok) ∧
      (id ∈ [0x01#8, 0x09#8, 0x11#8] → 6 ≤ payload.length →
        t.parser.legacyok = decide (payload[5]? = some (responseCrc id payload))) ∧
      t = { s with
        queue := t.queue, crcacc := t.crcacc, settings := t.settings, draws := t.draws, inputs := [],
        builder := { s.builder with cmdin := cmd, txbuf := t.builder.txbuf, txlen := t.builder.txlen },
        transport := { txdone := false, tmo := 750#16, txidx := frame.length },
        parser := { t.parser with
          pstate := .idle, ndisc := BitVec.ofNat 3 before.length, haveaa := true, rxcmd := id,
          rxlen := BitVec.ofNat 8 payload.length, rxcrc := responseCrc id payload,
          pidx := BitVec.ofNat 8 payload.length },
        seq := { xstate := .done, eidx := BitVec.ofNat 9 frame.length, outcome := .success, outvalid := true },
        link := { (baudStep s).link with
          sent := (baudStep s).link.sent + 1#16, recv := (baudStep s).link.recv + 1#16 },
        outputs := (baudStep s).outputs ++ .enableTransmit :: frame.map .transmitByte ++
          List.replicate (echo.length + reply.length) .clearOverrunFlag,
        results := s.results ++ [⟨.ok, 0#16⟩] }

/-- (derived) R275, R285, R287, R289, R290, entries 2, 4 and 18: if an echoed byte differs, the first one or a later
one, the pad echoed or not, the exchange reports EchoMismatch, returns to `IDLE`, leaves the settings unchanged, and
`SENT` counts the attempt. -/
def Obligations.ExchangeStopsOnEchoMismatch : Prop :=
  ∀ (s : State) (cmd b : Byte) (request before : List Byte) (k : Nat), accepting s = true →
    PayloadLoaded s request → QueueLegal s.params.qcap s.queue → s.transport.txdone = true →
    request.length + 6 ≤ s.params.qcap → EchoDiverges (builtFrame cmd request) before b k →
    let frame := builtFrame cmd request
    ∃ t, runOn (given (.xCmd cmd) :: polls (4 + frame.length) ++ arrivals (before ++ [b]) ++
        polls (before.length + 1)) s = .next t ∧ FrameBuilt cmd request s t ∧ Queued t [] ∧
      t = { s with
        queue := t.queue, crcacc := t.crcacc, inputs := [],
        builder := { s.builder with cmdin := cmd, txbuf := t.builder.txbuf, txlen := t.builder.txlen },
        transport := { txdone := false, tmo := 750#16, txidx := frame.length },
        seq := { xstate := .idle, eidx := BitVec.ofNat 9 k, outcome := .echoMismatch, outvalid := true },
        link := { (baudStep s).link with sent := (baudStep s).link.sent + 1#16 },
        outputs := (baudStep s).outputs ++ .enableTransmit :: frame.map .transmitByte ++
          List.replicate (before.length + 1) .clearOverrunFlag,
        results := s.results ++ [⟨.fail, 2#16⟩] }

/-- (derived) R304, R287, R309, entry 18: raising an outcome, whatever it is, touches `XSTATE`, `OUTCOME` and
`OUTVALID` only inside an exchange, answers `FAIL` with the code, changes no setting, counter, queue or frame, and the
next request is accepted at once. -/
def Obligations.RaiseEndsOperation : Prop := ∀ (o : ExchangeOutcome) (s : State),
  FailedWith o s (raise o s) ∧ accepting (raise o s) = true ∧ (raise o s).queue = s.queue ∧
  (raise o s).settings = s.settings ∧ (raise o s).link = s.link ∧ (raise o s).builder = s.builder ∧
  (raise o s).transport = s.transport ∧ (raise o s).crcacc = s.crcacc ∧ (raise o s).outputs = s.outputs ∧
  (raise o s).parser = { s.parser with pstate := (raise o s).parser.pstate }

/-- (derived) R33, R186, R196, R287, entry 12: the settings change only in the commit of a dispatch, in the same
transition that reports Success and counts the response; no other instruction or micro-step writes them. Of a whole
step, whatever its input, the same: one such transition changes them; a response row has other transitions around it,
any other step has none. -/
def Obligations.SettingsChangeOnlyAtCommit : Prop := ∀ s t : State, t.settings ≠ s.settings →
  (∀ i, (∀ frame, encode i ≠ .rsp frame) → exec i s ≠ .next t) ∧
  (∀ ready, microStep ready s = .ok t → s.task = .dispatch ∧ t.task = .idle ∧ Succeeded s t ∧
    t.link = { s.link with recv := s.link.recv + 1#16 }) ∧
  (step s = .next t → ∃ u v, WithinStep s u v t ∧ u.settings = s.settings ∧ v.settings = t.settings ∧
    u.task = .dispatch ∧ v.task = .idle ∧ Succeeded u v ∧ v.link = { u.link with recv := u.link.recv + 1#16 } ∧
    ∃ ready, microStep ready u = .ok v)

/-- R112: the two reserved codes are refused in every state, and every request word is while an exchange runs: the
answer is `REFUSED`, and no state changes. The `RVAL` beside `REFUSED` is in no rule: `AnswerValueChoices`. -/
def Obligations.RequestsRefusedDuringExchange : Prop := ∀ (s : State) (w : BitVec 12),
  (opField w = 0x0#4 ∨ opField w = 0xF#4 ∨ (s.seq.xstate ≠ .idle ∧ s.seq.xstate ≠ .done)) →
  ∃ i v, decode (.cmd w) = .ok i ∧ exec i s = .next { s with results := s.results ++ [⟨.refused, v⟩] }

/-- (derived) R110, R112, R10, entries 3, 11 and 18: a request is also refused while a stand-alone operation is in
progress; so is a request row, and in every state a request row whose payload is longer than 255 bytes. The row's
payload is not loaded then (entry 11). -/
def Obligations.RequestsRefusedWhileBusy : Prop := ∀ s : State,
  (accepting s = true ↔ (s.seq.xstate = .idle ∨ s.seq.xstate = .done) ∧ s.task = .idle) ∧
  (s.task ≠ .idle → ∀ w : BitVec 12, ∃ i, decode (.cmd w) = .ok i ∧
    exec i s = .next { s with results := s.results ++ [⟨.refused, 0#16⟩] }) ∧
  (∀ payload : List Byte, accepting s = false ∨ 255 < payload.length →
    ∀ i ∈ [Instr.reqGetSettings payload, .reqSetPower payload, .reqSetChannel payload, .reqSetFrequency payload,
      .reqSetMode payload, .reqGetSettingsV2 payload, .reqGetSettingsV21 payload],
      exec i s = .next { s with results := s.results ++ [⟨.refused, 0#16⟩] })

/-! ## The read port and reset -/

/-- (derived) R39, R118, R300, entry 15: a read of any register numbers in one transition answers each and changes
nothing else; the sixteen registers, the fields of `STATUS` with the number of each sequencer state and of each
outcome, and 0 for every other number. Indices and the number of unread bytes are given by their low 16 bits. -/
def Obligations.ReadPortValues : Prop := ∀ s : State,
  (∀ sels rest, s.inputs = .read sels :: rest →
    step s = .next { s with inputs := rest, readouts := s.readouts ++ sels.map (readPort s) }) ∧
  (readPort s 0).extractLsb' 0 3 = (match s.seq.xstate with
    | .idle => 0#3 | .send => 1#3 | .awaitEcho => 2#3 | .awaitResponse => 3#3 | .done => 4#3) ∧
  (readPort s 0).getLsbD 3 = s.seq.outvalid ∧
  (readPort s 0).extractLsb' 4 3 = (match s.seq.outcome with
    | .success => 0#3 | .timeout => 1#3 | .echoMismatch => 2#3 | .crcMismatch => 3#3 | .invalidMagic => 4#3
    | .unknownCommand => 5#3) ∧
  (readPort s 0).getLsbD 7 = s.parser.legacyok ∧
  (readPort s 0).getLsbD 8 = s.transport.txdone ∧ (readPort s 0).getLsbD 9 = s.queue.full ∧
  (readPort s 0).extractLsb' 10 6 = 0#6 ∧
  readPort s 1 = s.settings.ver.setWidth 16 ∧ readPort s 2 = s.settings.chan.setWidth 16 ∧
  readPort s 3 = s.settings.power.setWidth 16 ∧ readPort s 4 = s.settings.mode.setWidth 16 ∧
  readPort s 5 = s.settings.freq ∧ readPort s 6 = s.link.baud ∧
  readPort s 7 = (if s.link.dir = .up then 0#16 else 1#16) ∧ readPort s 8 = s.link.lastpct.setWidth 16 ∧
  readPort s 9 = s.link.sent ∧ readPort s 10 = s.link.recv ∧ readPort s 11 = BitVec.ofNat 16 (avail s) ∧
  readPort s 12 = s.crcacc.setWidth 16 ∧ readPort s 13 = BitVec.ofNat 16 s.queue.head ∧
  readPort s 14 = BitVec.ofNat 16 s.queue.tail ∧ readPort s 15 = s.builder.txlen.setWidth 16 ∧
  (∀ n, 16 ≤ n → readPort s n = 0#16)

/-- R340: the value of every register that the spec gives a reset value, whatever the two OPEN parameters are. -/
def Obligations.ResetRegisters : Prop := ∀ (qcap : Nat) (txTimeout : Half),
  let r := State.resetWith qcap txTimeout
  r.queue.head = 0 ∧ r.queue.tail = 0 ∧ r.queue.full = false ∧ r.crcacc = 0x00#8 ∧ r.builder.paylen = 0#8 ∧
  r.builder.txlen = 0#9 ∧ r.transport.txdone = true ∧ r.transport.tmo = 0#16 ∧ r.parser.pstate = .idle ∧
  r.parser.ndisc = 0#3 ∧ r.parser.haveaa = false ∧ r.parser.pidx = 0#8 ∧ r.parser.legacyok = false ∧
  r.settings = ⟨0#2, 0#8, 0#8, 0#8, 0#16⟩ ∧ r.link.baud = 4800#16 ∧ r.link.dir.value = 1 ∧ r.link.lastpct = 0#8 ∧
  r.link.sent = 0#16 ∧ r.link.recv = 0#16 ∧ r.seq.xstate = .idle ∧ r.seq.eidx = 0#9 ∧ r.seq.outcome.code = 0#3 ∧
  r.seq.outvalid = false

/-! ## Invariants -/

/-- (derived) R22, R24, R34, R60, R61, R340, R341, entries 5 and 7: after reset, for every `QCAP` and `TX_TIMEOUT` of
at least 1, both invariants hold. -/
def Obligations.ResetIsLegal : Prop := ∀ (qcap : Nat) (txTimeout : Half), 1 ≤ qcap → txTimeout ≠ 0#16 →
  BlockLegal (State.resetWith qcap txTimeout) ∧ CountersLegal (State.resetWith qcap txTimeout)

/-- (derived) R22, R24, R27, R30, R34, R35, R36, R60, R61, R138, R240 (a): every step keeps the block legal. -/
def Obligations.StepKeepsBlockLegal : Prop := ∀ s t : State, BlockLegal s → step s = .next t → BlockLegal t

/-- (derived) R138, R341, R61, entry 7: from a legal state no step reads a byte that nothing has written: it answers a
next state, or refuses a packet that is no instruction. -/
def Obligations.LegalStepCompletes : Prop := ∀ s : State, BlockLegal s →
  (∃ t, step s = .next t) ∨ (∃ p rest e, s.inputs = .packet p :: rest ∧ decode p = .error e ∧
    step s = .refused (.undecodable e))

/-- (derived) R34, R240 (e): in a run without stand-alone parses (`FP.PARSE` words and response rows that find an
exchange or another operation in progress start none) every step keeps `RECV <= SENT <= 10` and `LASTPCT <= 100`. -/
def Obligations.CountersStayLegal : Prop := ∀ s t : State, CountersLegal s →
  (∀ x, s.inputs.head? = some x → startsNoParse s x = true) → step s = .next t → CountersLegal t

/-! ## What the result port's rule leaves open -/

/-- (derived) R114, R112, entries 3 and 18: the model's choice, as the rule gives no `RVAL` beside `NONE` and `REFUSED`
and only its low three bits beside `FAIL`. The model answers 0 beside `NONE` and beside the refusals of R112 and of
entry 3, a stand-alone operation in progress (and of R10, R262, R275: other statements), and beside `FAIL` the
outcome's number with 0 above it. -/
def Obligations.AnswerValueChoices : Prop :=
  (∀ s : State, accepting s = true → s.queue.full = false → s.queue.head = s.queue.tail →
    exec .qPop s = .next { s with results := s.results ++ [⟨.none, 0#16⟩] }) ∧
  (∀ (s : State) (w : BitVec 12), (opField w = 0x0#4 ∨ opField w = 0xF#4 ∨ accepting s = false) →
    ∃ i, decode (.cmd w) = .ok i ∧ exec i s = .next { s with results := s.results ++ [⟨.refused, 0#16⟩] }) ∧
  (∀ (o : ExchangeOutcome) (s : State), (raise o s).results = s.results ++ [⟨.fail, outcomeNumber o⟩])
end

