-- ==== Sys2Proof/Laws/Memory.lean ====
section
/-! SUPPORT. The laws of the byte arrays: read after write, the range operations, and the canonical form that every
operation keeps. -/

namespace Sys2Proof.Machine

@[simp] theorem Memory.read_nil (i : Nat) : Memory.read [] i = none := rfl

theorem Memory.read_write (m : Memory) (i j : Nat) (v : Byte) :
    (m.write i v).read j = if j = i then some v else m.read j := by
  induction m with
  | nil =>
    by_cases h : i = j
    · simp [Memory.write, Memory.read, h]
    · simp [Memory.write, Memory.read, h, Ne.symm h]
  | cons c rest ih =>
    obtain ⟨k, w⟩ := c
    simp only [Memory.write]
    split
    · by_cases h : j = i
      · simp [Memory.read, h]
      · simp [Memory.read, h, Ne.symm h]
    · split
      · subst i
        by_cases h : j = k
        · simp [Memory.read, h]
        · simp [Memory.read, h, Ne.symm h]
      · simp only [Memory.read, ih]
        split <;> split <;> simp_all

@[simp] theorem Memory.read_write_same (m : Memory) (i : Nat) (v : Byte) : (m.write i v).read i = some v := by
  simp [Memory.read_write]

theorem Memory.read_write_other (m : Memory) {i j : Nat} (v : Byte) (h : j ≠ i) :
    (m.write i v).read j = m.read j := by
  simp [Memory.read_write, h]

/-- A stored range reads back, and every index outside it reads as before. -/
theorem Memory.read_writeRange (m : Memory) (i j : Nat) (bytes : List Byte) :
    (m.writeRange i bytes).read j = if i ≤ j ∧ j < i + bytes.length then bytes[j - i]? else m.read j := by
  induction bytes generalizing m i with
  | nil => simp [Memory.writeRange]
  | cons b rest ih =>
    simp only [Memory.writeRange, ih, Memory.read_write, List.length_cons]
    by_cases h : j = i
    · subst h; simp
    · by_cases h2 : i + 1 ≤ j ∧ j < i + 1 + rest.length
      · have h3 : i ≤ j ∧ j < i + (rest.length + 1) := by omega
        have h4 : j - i = (j - (i + 1)) + 1 := by omega
        simp only [h2, h3, and_self, if_true]
        rw [h4, List.getElem?_cons_succ]
      · have h3 : ¬ (i ≤ j ∧ j < i + (rest.length + 1)) := by omega
        rw [if_neg h2, if_neg h3, if_neg h]

/-- Reading a range gives its bytes exactly when each of them was written. -/
theorem Memory.readRange_eq_some (m : Memory) (i n : Nat) (bytes : List Byte) :
    m.readRange i n = some bytes ↔ bytes.length = n ∧ ∀ k, k < n → m.read (i + k) = bytes[k]? := by
  induction n generalizing i bytes with
  | zero =>
    simp only [Memory.readRange, Option.some.injEq]
    exact ⟨fun h => by subst h; simp, fun h => (List.length_eq_zero_iff.mp h.1).symm⟩
  | succ n ih =>
    cases bytes with
    | nil =>
      constructor
      · intro h
        simp only [Memory.readRange] at h
        split at h <;> simp at h
      · rintro ⟨h, -⟩; simp at h
    | cons b rest =>
      simp only [Memory.readRange, List.length_cons, Nat.add_right_cancel_iff]
      constructor
      · intro h
        split at h
        · next v r hv hr =>
          simp only [Option.some.injEq, List.cons.injEq] at h
          obtain ⟨rfl, rfl⟩ := h
          obtain ⟨hl, hk⟩ := (ih _ _).mp hr
          refine ⟨hl, fun k hk' => ?_⟩
          cases k with
          | zero => simpa using hv
          | succ k =>
            have h5 : i + (k + 1) = i + 1 + k := by omega
            rw [h5, List.getElem?_cons_succ]; exact hk k (by omega)
        · cases h
      · rintro ⟨hl, hk⟩
        have h0 : m.read i = some b := by simpa using hk 0 (by omega)
        have hr : m.readRange (i + 1) n = some rest := (ih _ _).mpr ⟨hl, fun k hk' => by
          have h5 : i + 1 + k = i + (k + 1) := by omega
          have := hk (k + 1) (by omega)
          rw [h5]; simpa using this⟩
        simp [h0, hr]

/-- A range can be read exactly when each of its bytes was written. -/
theorem Memory.readRange_isSome (m : Memory) (i n : Nat) :
    (m.readRange i n).isSome ↔ ∀ k, k < n → (m.read (i + k)).isSome := by
  induction n generalizing i with
  | zero => simp [Memory.readRange]
  | succ n ih =>
    have key : (m.readRange i (n + 1)).isSome ↔ (m.read i).isSome ∧ (m.readRange (i + 1) n).isSome := by
      simp only [Memory.readRange]
      cases m.read i <;> cases m.readRange (i + 1) n <;> simp
    rw [key, ih]
    constructor
    · rintro ⟨h0, hs⟩ k hk
      cases k with
      | zero => simpa using h0
      | succ k => have := hs k (by omega); rwa [show i + 1 + k = i + (k + 1) by omega] at this
    · intro h
      exact ⟨by simpa using h 0 (by omega), fun k hk => by
        have := h (k + 1) (by omega); rwa [show i + (k + 1) = i + 1 + k by omega] at this⟩

/-! ## The canonical form -/

/-- Every index of the memory is above `i`. -/
def Memory.above (i : Nat) (m : Memory) : Prop := ∀ c ∈ m, i < c.1

theorem Memory.wf_cons (c : Host.Cell) (m : Memory) : Memory.wf (c :: m) = true ↔ m.above c.1 ∧ m.wf = true := by
  induction m generalizing c with
  | nil => simp [Memory.wf, Memory.above]
  | cons d rest ih =>
    simp only [Memory.wf, Bool.and_eq_true, decide_eq_true_eq, Memory.above, List.mem_cons, forall_eq_or_imp]
    constructor
    · rintro ⟨h, hw⟩
      exact ⟨⟨h, fun e he => h.trans (((ih d).mp hw).1 e he)⟩, hw⟩
    · rintro ⟨⟨h, -⟩, hw⟩
      exact ⟨h, hw⟩

theorem Memory.mem_write {m : Memory} {i : Nat} {v : Byte} {c : Host.Cell} (h : c ∈ m.write i v) :
    c = (i, v) ∨ c ∈ m := by
  induction m with
  | nil => simpa [Memory.write] using h
  | cons d rest ih =>
    obtain ⟨k, w⟩ := d
    simp only [Memory.write] at h
    split at h
    · simpa using h
    · split at h
      · simp only [List.mem_cons] at h ⊢; tauto
      · simp only [List.mem_cons] at h ⊢
        rcases h with h | h
        · exact .inr (.inl h)
        · rcases ih h with h | h
          · exact .inl h
          · exact .inr (.inr h)

/-- A write keeps the canonical form. -/
theorem Memory.wf_write {m : Memory} (h : m.wf = true) (i : Nat) (v : Byte) : (m.write i v).wf = true := by
  induction m with
  | nil => rfl
  | cons d rest ih =>
    obtain ⟨k, w⟩ := d
    obtain ⟨ha, hw⟩ := (Memory.wf_cons _ _).mp h
    simp only [Memory.write]
    split
    · next hik =>
      refine (Memory.wf_cons _ _).mpr ⟨fun c hc => ?_, h⟩
      rcases List.mem_cons.mp hc with rfl | hc
      · exact hik
      · exact Nat.lt_trans hik (ha c hc)
    · split
      · next hik => subst hik; exact (Memory.wf_cons _ _).mpr ⟨ha, hw⟩
      · next h1 h2 =>
        refine (Memory.wf_cons _ _).mpr ⟨fun c hc => ?_, ih hw⟩
        rcases Memory.mem_write hc with rfl | hc
        · show k < i; omega
        · exact ha c hc

/-- A write of a range keeps the canonical form. -/
theorem Memory.wf_writeRange {m : Memory} (h : m.wf = true) (i : Nat) (bytes : List Byte) :
    (m.writeRange i bytes).wf = true := by
  induction bytes generalizing m i with
  | nil => exact h
  | cons b rest ih => exact ih (Memory.wf_write h i b) (i + 1)

/-- A write of a range adds no index outside the range. -/
theorem Memory.mem_writeRange {m : Memory} {i : Nat} {bytes : List Byte} {c : Host.Cell}
    (h : c ∈ m.writeRange i bytes) : (i ≤ c.1 ∧ c.1 < i + bytes.length) ∨ c ∈ m := by
  induction bytes generalizing m i with
  | nil => exact .inr h
  | cons b rest ih =>
    rcases ih h with h | h
    · left; simp only [List.length_cons]; omega
    · rcases Memory.mem_write h with rfl | h
      · left; simp only [List.length_cons]; omega
      · exact .inr h

end Sys2Proof.Machine
end

