-- ==== Sys2Proof/Laws/State.lean ====
section
/-! SUPPORT. One lemma for each field of State under each named update of the model, true by definition: no later proof
unfolds an update to read a field. -/

namespace Sys2Proof.Machine

/-! ### `emit` -/

section
variable (s : State) (c : PeriphCall)
@[simp] theorem State.emit_queue : (s.emit c).queue = s.queue := rfl
@[simp] theorem State.emit_crcacc : (s.emit c).crcacc = s.crcacc := rfl
@[simp] theorem State.emit_builder : (s.emit c).builder = s.builder := rfl
@[simp] theorem State.emit_transport : (s.emit c).transport = s.transport := rfl
@[simp] theorem State.emit_parser : (s.emit c).parser = s.parser := rfl
@[simp] theorem State.emit_settings : (s.emit c).settings = s.settings := rfl
@[simp] theorem State.emit_link : (s.emit c).link = s.link := rfl
@[simp] theorem State.emit_seq : (s.emit c).seq = s.seq := rfl
@[simp] theorem State.emit_task : (s.emit c).task = s.task := rfl
@[simp] theorem State.emit_params : (s.emit c).params = s.params := rfl
@[simp] theorem State.emit_inputs : (s.emit c).inputs = s.inputs := rfl
@[simp] theorem State.emit_outputs : (s.emit c).outputs = s.outputs ++ [c] := rfl
@[simp] theorem State.emit_results : (s.emit c).results = s.results := rfl
@[simp] theorem State.emit_readouts : (s.emit c).readouts = s.readouts := rfl
@[simp] theorem State.emit_draws : (s.emit c).draws = s.draws := rfl
end

/-! ### `answer` -/

section
variable (s : State) (r : PortResult)
@[simp] theorem State.answer_queue : (s.answer r).queue = s.queue := rfl
@[simp] theorem State.answer_crcacc : (s.answer r).crcacc = s.crcacc := rfl
@[simp] theorem State.answer_builder : (s.answer r).builder = s.builder := rfl
@[simp] theorem State.answer_transport : (s.answer r).transport = s.transport := rfl
@[simp] theorem State.answer_parser : (s.answer r).parser = s.parser := rfl
@[simp] theorem State.answer_settings : (s.answer r).settings = s.settings := rfl
@[simp] theorem State.answer_link : (s.answer r).link = s.link := rfl
@[simp] theorem State.answer_seq : (s.answer r).seq = s.seq := rfl
@[simp] theorem State.answer_task : (s.answer r).task = s.task := rfl
@[simp] theorem State.answer_params : (s.answer r).params = s.params := rfl
@[simp] theorem State.answer_inputs : (s.answer r).inputs = s.inputs := rfl
@[simp] theorem State.answer_outputs : (s.answer r).outputs = s.outputs := rfl
@[simp] theorem State.answer_results : (s.answer r).results = s.results ++ [r] := rfl
@[simp] theorem State.answer_readouts : (s.answer r).readouts = s.readouts := rfl
@[simp] theorem State.answer_draws : (s.answer r).draws = s.draws := rfl
end

/-! ### `refuse` -/

section
variable (s : State)
@[simp] theorem State.refuse_queue : (s.refuse).queue = s.queue := rfl
@[simp] theorem State.refuse_crcacc : (s.refuse).crcacc = s.crcacc := rfl
@[simp] theorem State.refuse_builder : (s.refuse).builder = s.builder := rfl
@[simp] theorem State.refuse_transport : (s.refuse).transport = s.transport := rfl
@[simp] theorem State.refuse_parser : (s.refuse).parser = s.parser := rfl
@[simp] theorem State.refuse_settings : (s.refuse).settings = s.settings := rfl
@[simp] theorem State.refuse_link : (s.refuse).link = s.link := rfl
@[simp] theorem State.refuse_seq : (s.refuse).seq = s.seq := rfl
@[simp] theorem State.refuse_task : (s.refuse).task = s.task := rfl
@[simp] theorem State.refuse_params : (s.refuse).params = s.params := rfl
@[simp] theorem State.refuse_inputs : (s.refuse).inputs = s.inputs := rfl
@[simp] theorem State.refuse_outputs : (s.refuse).outputs = s.outputs := rfl
@[simp] theorem State.refuse_results : (s.refuse).results = s.results ++ [⟨.refused, 0#16⟩] := rfl
@[simp] theorem State.refuse_readouts : (s.refuse).readouts = s.readouts := rfl
@[simp] theorem State.refuse_draws : (s.refuse).draws = s.draws := rfl
end

/-! ### `finish` -/

section
variable (v : Half) (s : State)
@[simp] theorem finish_queue : (finish v s).queue = s.queue := rfl
@[simp] theorem finish_crcacc : (finish v s).crcacc = s.crcacc := rfl
@[simp] theorem finish_builder : (finish v s).builder = s.builder := rfl
@[simp] theorem finish_transport : (finish v s).transport = s.transport := rfl
@[simp] theorem finish_parser : (finish v s).parser = s.parser := rfl
@[simp] theorem finish_settings : (finish v s).settings = s.settings := rfl
@[simp] theorem finish_link : (finish v s).link = s.link := rfl
@[simp] theorem finish_seq : (finish v s).seq = s.seq := rfl
@[simp] theorem finish_task : (finish v s).task = .idle := rfl
@[simp] theorem finish_params : (finish v s).params = s.params := rfl
@[simp] theorem finish_inputs : (finish v s).inputs = s.inputs := rfl
@[simp] theorem finish_outputs : (finish v s).outputs = s.outputs := rfl
@[simp] theorem finish_results : (finish v s).results = s.results ++ [⟨.ok, v⟩] := rfl
@[simp] theorem finish_readouts : (finish v s).readouts = s.readouts := rfl
@[simp] theorem finish_draws : (finish v s).draws = s.draws := rfl
end

/-! ### `push` -/

section
variable (b : Byte) (s : State)
@[simp] theorem push_crcacc : (push b s).crcacc = s.crcacc := rfl
@[simp] theorem push_builder : (push b s).builder = s.builder := rfl
@[simp] theorem push_transport : (push b s).transport = s.transport := rfl
@[simp] theorem push_parser : (push b s).parser = s.parser := rfl
@[simp] theorem push_settings : (push b s).settings = s.settings := rfl
@[simp] theorem push_link : (push b s).link = s.link := rfl
@[simp] theorem push_seq : (push b s).seq = s.seq := rfl
@[simp] theorem push_task : (push b s).task = s.task := rfl
@[simp] theorem push_params : (push b s).params = s.params := rfl
@[simp] theorem push_inputs : (push b s).inputs = s.inputs := rfl
@[simp] theorem push_outputs : (push b s).outputs = s.outputs := rfl
@[simp] theorem push_results : (push b s).results = s.results := rfl
@[simp] theorem push_readouts : (push b s).readouts = s.readouts := rfl
@[simp] theorem push_draws : (push b s).draws = s.draws := rfl
end

/-! ### `clearQueue` -/

section
variable (s : State)
@[simp] theorem clearQueue_queue : (clearQueue s).queue = { s.queue with head := 0, tail := 0, full := false } := rfl
@[simp] theorem clearQueue_crcacc : (clearQueue s).crcacc = s.crcacc := rfl
@[simp] theorem clearQueue_builder : (clearQueue s).builder = s.builder := rfl
@[simp] theorem clearQueue_transport : (clearQueue s).transport = s.transport := rfl
@[simp] theorem clearQueue_parser : (clearQueue s).parser = s.parser := rfl
@[simp] theorem clearQueue_settings : (clearQueue s).settings = s.settings := rfl
@[simp] theorem clearQueue_link : (clearQueue s).link = s.link := rfl
@[simp] theorem clearQueue_seq : (clearQueue s).seq = s.seq := rfl
@[simp] theorem clearQueue_task : (clearQueue s).task = s.task := rfl
@[simp] theorem clearQueue_params : (clearQueue s).params = s.params := rfl
@[simp] theorem clearQueue_inputs : (clearQueue s).inputs = s.inputs := rfl
@[simp] theorem clearQueue_outputs : (clearQueue s).outputs = s.outputs := rfl
@[simp] theorem clearQueue_results : (clearQueue s).results = s.results := rfl
@[simp] theorem clearQueue_readouts : (clearQueue s).readouts = s.readouts := rfl
@[simp] theorem clearQueue_draws : (clearQueue s).draws = s.draws := rfl
end

/-! ### `receiveEvent` -/

section
variable (b : Byte) (s : State)
@[simp] theorem receiveEvent_queue : (receiveEvent b s).queue = (push b s).queue := rfl
@[simp] theorem receiveEvent_crcacc : (receiveEvent b s).crcacc = s.crcacc := rfl
@[simp] theorem receiveEvent_builder : (receiveEvent b s).builder = s.builder := rfl
@[simp] theorem receiveEvent_transport : (receiveEvent b s).transport = s.transport := rfl
@[simp] theorem receiveEvent_parser : (receiveEvent b s).parser = s.parser := rfl
@[simp] theorem receiveEvent_settings : (receiveEvent b s).settings = s.settings := rfl
@[simp] theorem receiveEvent_link : (receiveEvent b s).link = s.link := rfl
@[simp] theorem receiveEvent_seq : (receiveEvent b s).seq = s.seq := rfl
@[simp] theorem receiveEvent_task : (receiveEvent b s).task = s.task := rfl
@[simp] theorem receiveEvent_params : (receiveEvent b s).params = s.params := rfl
@[simp] theorem receiveEvent_inputs : (receiveEvent b s).inputs = s.inputs := rfl
@[simp] theorem receiveEvent_outputs : (receiveEvent b s).outputs = s.outputs ++ [.clearOverrunFlag] := rfl
@[simp] theorem receiveEvent_results : (receiveEvent b s).results = s.results := rfl
@[simp] theorem receiveEvent_readouts : (receiveEvent b s).readouts = s.readouts := rfl
@[simp] theorem receiveEvent_draws : (receiveEvent b s).draws = s.draws := rfl
end

/-! ### `loadPayload` -/

section
variable (p : List Byte) (s : State)
@[simp] theorem loadPayload_queue : (loadPayload p s).queue = s.queue := rfl
@[simp] theorem loadPayload_crcacc : (loadPayload p s).crcacc = s.crcacc := rfl
@[simp] theorem loadPayload_transport : (loadPayload p s).transport = s.transport := rfl
@[simp] theorem loadPayload_parser : (loadPayload p s).parser = s.parser := rfl
@[simp] theorem loadPayload_settings : (loadPayload p s).settings = s.settings := rfl
@[simp] theorem loadPayload_link : (loadPayload p s).link = s.link := rfl
@[simp] theorem loadPayload_seq : (loadPayload p s).seq = s.seq := rfl
@[simp] theorem loadPayload_task : (loadPayload p s).task = s.task := rfl
@[simp] theorem loadPayload_params : (loadPayload p s).params = s.params := rfl
@[simp] theorem loadPayload_inputs : (loadPayload p s).inputs = s.inputs := rfl
@[simp] theorem loadPayload_outputs : (loadPayload p s).outputs = s.outputs := rfl
@[simp] theorem loadPayload_results : (loadPayload p s).results = s.results := rfl
@[simp] theorem loadPayload_readouts : (loadPayload p s).readouts = s.readouts := rfl
@[simp] theorem loadPayload_draws : (loadPayload p s).draws = s.draws := rfl
end

/-! ### `reconfigure` -/

section
variable (s : State)
@[simp] theorem reconfigure_queue : (reconfigure s).queue = s.queue := rfl
@[simp] theorem reconfigure_crcacc : (reconfigure s).crcacc = s.crcacc := rfl
@[simp] theorem reconfigure_builder : (reconfigure s).builder = s.builder := rfl
@[simp] theorem reconfigure_transport : (reconfigure s).transport = s.transport := rfl
@[simp] theorem reconfigure_parser : (reconfigure s).parser = s.parser := rfl
@[simp] theorem reconfigure_settings : (reconfigure s).settings = s.settings := rfl
@[simp] theorem reconfigure_link : (reconfigure s).link = s.link := rfl
@[simp] theorem reconfigure_seq : (reconfigure s).seq = s.seq := rfl
@[simp] theorem reconfigure_task : (reconfigure s).task = s.task := rfl
@[simp] theorem reconfigure_params : (reconfigure s).params = s.params := rfl
@[simp] theorem reconfigure_inputs : (reconfigure s).inputs = s.inputs := rfl
@[simp] theorem reconfigure_outputs : (reconfigure s).outputs = s.outputs ++ [.configureLink s.link.baud true] := rfl
@[simp] theorem reconfigure_results : (reconfigure s).results = s.results := rfl
@[simp] theorem reconfigure_readouts : (reconfigure s).readouts = s.readouts := rfl
@[simp] theorem reconfigure_draws : (reconfigure s).draws = s.draws := rfl
end

/-! ### `countDown` -/

section
variable (s : State)
@[simp] theorem countDown_queue : (countDown s).queue = s.queue := rfl
@[simp] theorem countDown_crcacc : (countDown s).crcacc = s.crcacc := rfl
@[simp] theorem countDown_builder : (countDown s).builder = s.builder := rfl
@[simp] theorem countDown_transport : (countDown s).transport = { s.transport with tmo := s.transport.tmo - 1#16 } := rfl
@[simp] theorem countDown_parser : (countDown s).parser = s.parser := rfl
@[simp] theorem countDown_settings : (countDown s).settings = s.settings := rfl
@[simp] theorem countDown_link : (countDown s).link = s.link := rfl
@[simp] theorem countDown_seq : (countDown s).seq = s.seq := rfl
@[simp] theorem countDown_task : (countDown s).task = s.task := rfl
@[simp] theorem countDown_params : (countDown s).params = s.params := rfl
@[simp] theorem countDown_inputs : (countDown s).inputs = s.inputs := rfl
@[simp] theorem countDown_outputs : (countDown s).outputs = s.outputs := rfl
@[simp] theorem countDown_results : (countDown s).results = s.results := rfl
@[simp] theorem countDown_readouts : (countDown s).readouts = s.readouts := rfl
@[simp] theorem countDown_draws : (countDown s).draws = s.draws := rfl
end

/-! ### `loadRxTimeout` -/

section
variable (s : State)
@[simp] theorem loadRxTimeout_queue : (loadRxTimeout s).queue = s.queue := rfl
@[simp] theorem loadRxTimeout_crcacc : (loadRxTimeout s).crcacc = s.crcacc := rfl
@[simp] theorem loadRxTimeout_builder : (loadRxTimeout s).builder = s.builder := rfl
@[simp] theorem loadRxTimeout_transport : (loadRxTimeout s).transport = { s.transport with tmo := Config.rxTimeout } := rfl
@[simp] theorem loadRxTimeout_parser : (loadRxTimeout s).parser = s.parser := rfl
@[simp] theorem loadRxTimeout_settings : (loadRxTimeout s).settings = s.settings := rfl
@[simp] theorem loadRxTimeout_link : (loadRxTimeout s).link = s.link := rfl
@[simp] theorem loadRxTimeout_seq : (loadRxTimeout s).seq = s.seq := rfl
@[simp] theorem loadRxTimeout_task : (loadRxTimeout s).task = s.task := rfl
@[simp] theorem loadRxTimeout_params : (loadRxTimeout s).params = s.params := rfl
@[simp] theorem loadRxTimeout_inputs : (loadRxTimeout s).inputs = s.inputs := rfl
@[simp] theorem loadRxTimeout_outputs : (loadRxTimeout s).outputs = s.outputs := rfl
@[simp] theorem loadRxTimeout_results : (loadRxTimeout s).results = s.results := rfl
@[simp] theorem loadRxTimeout_readouts : (loadRxTimeout s).readouts = s.readouts := rfl
@[simp] theorem loadRxTimeout_draws : (loadRxTimeout s).draws = s.draws := rfl
end

/-! ### `loadTxTimeout` -/

section
variable (s : State)
@[simp] theorem loadTxTimeout_queue : (loadTxTimeout s).queue = s.queue := rfl
@[simp] theorem loadTxTimeout_crcacc : (loadTxTimeout s).crcacc = s.crcacc := rfl
@[simp] theorem loadTxTimeout_builder : (loadTxTimeout s).builder = s.builder := rfl
@[simp] theorem loadTxTimeout_transport : (loadTxTimeout s).transport = { s.transport with tmo := s.params.txTimeout } := rfl
@[simp] theorem loadTxTimeout_parser : (loadTxTimeout s).parser = s.parser := rfl
@[simp] theorem loadTxTimeout_settings : (loadTxTimeout s).settings = s.settings := rfl
@[simp] theorem loadTxTimeout_link : (loadTxTimeout s).link = s.link := rfl
@[simp] theorem loadTxTimeout_seq : (loadTxTimeout s).seq = s.seq := rfl
@[simp] theorem loadTxTimeout_task : (loadTxTimeout s).task = s.task := rfl
@[simp] theorem loadTxTimeout_params : (loadTxTimeout s).params = s.params := rfl
@[simp] theorem loadTxTimeout_inputs : (loadTxTimeout s).inputs = s.inputs := rfl
@[simp] theorem loadTxTimeout_outputs : (loadTxTimeout s).outputs = s.outputs := rfl
@[simp] theorem loadTxTimeout_results : (loadTxTimeout s).results = s.results := rfl
@[simp] theorem loadTxTimeout_readouts : (loadTxTimeout s).readouts = s.readouts := rfl
@[simp] theorem loadTxTimeout_draws : (loadTxTimeout s).draws = s.draws := rfl
end

/-! ### `startSend` -/

section
variable (s : State)
@[simp] theorem startSend_queue : (startSend s).queue = s.queue := rfl
@[simp] theorem startSend_crcacc : (startSend s).crcacc = s.crcacc := rfl
@[simp] theorem startSend_builder : (startSend s).builder = s.builder := rfl
@[simp] theorem startSend_transport : (startSend s).transport = { s.transport with tmo := s.params.txTimeout } := rfl
@[simp] theorem startSend_parser : (startSend s).parser = s.parser := rfl
@[simp] theorem startSend_settings : (startSend s).settings = s.settings := rfl
@[simp] theorem startSend_link : (startSend s).link = s.link := rfl
@[simp] theorem startSend_seq : (startSend s).seq = s.seq := rfl
@[simp] theorem startSend_task : (startSend s).task = .sendWait := rfl
@[simp] theorem startSend_params : (startSend s).params = s.params := rfl
@[simp] theorem startSend_inputs : (startSend s).inputs = s.inputs := rfl
@[simp] theorem startSend_outputs : (startSend s).outputs = s.outputs := rfl
@[simp] theorem startSend_results : (startSend s).results = s.results := rfl
@[simp] theorem startSend_readouts : (startSend s).readouts = s.readouts := rfl
@[simp] theorem startSend_draws : (startSend s).draws = s.draws := rfl
end

/-! ### `startEcho` -/

section
variable (s : State)
@[simp] theorem startEcho_queue : (startEcho s).queue = s.queue := rfl
@[simp] theorem startEcho_crcacc : (startEcho s).crcacc = s.crcacc := rfl
@[simp] theorem startEcho_builder : (startEcho s).builder = s.builder := rfl
@[simp] theorem startEcho_transport : (startEcho s).transport = { s.transport with tmo := Config.rxTimeout } := rfl
@[simp] theorem startEcho_parser : (startEcho s).parser = s.parser := rfl
@[simp] theorem startEcho_settings : (startEcho s).settings = s.settings := rfl
@[simp] theorem startEcho_link : (startEcho s).link = s.link := rfl
@[simp] theorem startEcho_seq : (startEcho s).seq = { s.seq with eidx := 0#9 } := rfl
@[simp] theorem startEcho_task : (startEcho s).task = .echo := rfl
@[simp] theorem startEcho_params : (startEcho s).params = s.params := rfl
@[simp] theorem startEcho_inputs : (startEcho s).inputs = s.inputs := rfl
@[simp] theorem startEcho_outputs : (startEcho s).outputs = s.outputs := rfl
@[simp] theorem startEcho_results : (startEcho s).results = s.results := rfl
@[simp] theorem startEcho_readouts : (startEcho s).readouts = s.readouts := rfl
@[simp] theorem startEcho_draws : (startEcho s).draws = s.draws := rfl
end

/-! ### `startParse` -/

section
variable (s : State)
@[simp] theorem startParse_queue : (startParse s).queue = s.queue := rfl
@[simp] theorem startParse_crcacc : (startParse s).crcacc = s.crcacc := rfl
@[simp] theorem startParse_builder : (startParse s).builder = s.builder := rfl
@[simp] theorem startParse_transport : (startParse s).transport = { s.transport with tmo := Config.rxTimeout } := rfl
@[simp] theorem startParse_parser : (startParse s).parser = { s.parser with pstate := .sync, ndisc := 0#3, haveaa := false } := rfl
@[simp] theorem startParse_settings : (startParse s).settings = s.settings := rfl
@[simp] theorem startParse_link : (startParse s).link = s.link := rfl
@[simp] theorem startParse_seq : (startParse s).seq = s.seq := rfl
@[simp] theorem startParse_task : (startParse s).task = .parse := rfl
@[simp] theorem startParse_params : (startParse s).params = s.params := rfl
@[simp] theorem startParse_inputs : (startParse s).inputs = s.inputs := rfl
@[simp] theorem startParse_outputs : (startParse s).outputs = s.outputs := rfl
@[simp] theorem startParse_results : (startParse s).results = s.results := rfl
@[simp] theorem startParse_readouts : (startParse s).readouts = s.readouts := rfl
@[simp] theorem startParse_draws : (startParse s).draws = s.draws := rfl
end

/-! ### `raise` -/

section
variable (o : ExchangeOutcome) (s : State)
@[simp] theorem raise_queue : (raise o s).queue = s.queue := rfl
@[simp] theorem raise_crcacc : (raise o s).crcacc = s.crcacc := rfl
@[simp] theorem raise_builder : (raise o s).builder = s.builder := rfl
@[simp] theorem raise_transport : (raise o s).transport = s.transport := rfl
@[simp] theorem raise_parser : (raise o s).parser = if s.task.isParsing then { s.parser with pstate := .idle } else s.parser := rfl
@[simp] theorem raise_settings : (raise o s).settings = s.settings := rfl
@[simp] theorem raise_link : (raise o s).link = s.link := rfl
@[simp] theorem raise_seq : (raise o s).seq = if s.seq.xstate.running then { s.seq with xstate := .idle, outcome := o, outvalid := true } else s.seq := rfl
@[simp] theorem raise_task : (raise o s).task = .idle := rfl
@[simp] theorem raise_params : (raise o s).params = s.params := rfl
@[simp] theorem raise_inputs : (raise o s).inputs = s.inputs := rfl
@[simp] theorem raise_outputs : (raise o s).outputs = s.outputs := rfl
@[simp] theorem raise_results : (raise o s).results = s.results ++ [⟨.fail, o.code.setWidth 16⟩] := rfl
@[simp] theorem raise_readouts : (raise o s).readouts = s.readouts := rfl
@[simp] theorem raise_draws : (raise o s).draws = s.draws := rfl
end

/-! ### `commit` -/

section
variable (v : VtxSettings) (s : State)
@[simp] theorem commit_queue : (commit v s).queue = s.queue := rfl
@[simp] theorem commit_crcacc : (commit v s).crcacc = s.crcacc := rfl
@[simp] theorem commit_builder : (commit v s).builder = s.builder := rfl
@[simp] theorem commit_transport : (commit v s).transport = s.transport := rfl
@[simp] theorem commit_parser : (commit v s).parser = { s.parser with pstate := .idle } := rfl
@[simp] theorem commit_settings : (commit v s).settings = v := rfl
@[simp] theorem commit_link : (commit v s).link = { s.link with recv := s.link.recv + 1#16 } := rfl
@[simp] theorem commit_seq : (commit v s).seq = if s.seq.xstate.running then { s.seq with xstate := .done, outcome := .success, outvalid := true } else s.seq := rfl
@[simp] theorem commit_task : (commit v s).task = .idle := rfl
@[simp] theorem commit_params : (commit v s).params = s.params := rfl
@[simp] theorem commit_inputs : (commit v s).inputs = s.inputs := rfl
@[simp] theorem commit_outputs : (commit v s).outputs = s.outputs := rfl
@[simp] theorem commit_results : (commit v s).results = s.results ++ [⟨.ok, 0#16⟩] := rfl
@[simp] theorem commit_readouts : (commit v s).readouts = s.readouts := rfl
@[simp] theorem commit_draws : (commit v s).draws = s.draws := rfl
end

end Sys2Proof.Machine
end

