-- ==== Sys2Proof/Laws/Ops.lean ====
section
/-! SUPPORT. For each shared operation one lemma that says once everything it can do: cite it instead of unfolding the
operation. -/

namespace Sys2Proof.Machine

/-! ## Requests -/

/-- A request that answers a next state was accepted and did its operation, or was refused and changed nothing. -/
theorem request_cases {s t : State} {body : State → Except Fault State} (h : request s body = .next t) :
    (accepting s = true ∧ body s = .ok t) ∨ (accepting s = false ∧ t = s.refuse) := by
  simp only [request] at h
  split at h
  · next ha =>
    simp only [toOutcome] at h
    split at h
    · next hb => cases h; exact .inl ⟨ha, hb⟩
    · cases h
  · next ha => cases h; exact .inr ⟨by simpa using ha, rfl⟩

/-- An accepted request is its operation. -/
theorem request_accepted {s : State} (body : State → Except Fault State) (h : accepting s = true) :
    request s body = toOutcome (body s) := by simp [request, h]

/-- A request that is not accepted is refused (30_encoding.md R112). -/
theorem request_refused {s : State} (body : State → Except Fault State) (h : accepting s = false) :
    request s body = .next s.refuse := by simp [request, h]

/-- A request faults only if it is accepted and its operation does. -/
theorem request_fault {s : State} {body : State → Except Fault State} {f : Fault} (h : request s body = .fault f) :
    accepting s = true ∧ body s = .error f := by
  simp only [request] at h
  split at h
  · next ha =>
    simp only [toOutcome] at h
    split at h
    · cases h
    · next hb => cases h; exact ⟨ha, hb⟩
  · cases h

@[simp] theorem toOutcome_ok (s : State) : toOutcome (.ok s) = .next s := rfl
@[simp] theorem toOutcome_error (f : Fault) : toOutcome (.error f) = .fault f := rfl

/-- What "accepted" says: no operation in progress and no exchange running. -/
theorem accepting_iff (s : State) : accepting s = true ↔ s.seq.xstate.running = false ∧ s.task = .idle := by
  simp [accepting]

/-! ## The queue -/

/-- What `Q.POP` can answer (40_queue.md R133, R134). -/
theorem pop_cases {s t : State} {r : Option Byte} (h : pop s = .ok (r, t)) :
    (s.queue.isEmpty = true ∧ r = none ∧ t = s) ∨
    (∃ v, s.queue.isEmpty = false ∧ s.queue.buf.read s.queue.tail = some v ∧ r = some v ∧
      t = { s with queue := { s.queue with tail := (s.queue.tail + 1) % s.params.qcap, full := false } }) := by
  simp only [pop] at h
  split at h
  · next he => cases h; exact .inl ⟨he, rfl, rfl⟩
  · next he =>
    split at h
    · cases h
    · next v hv => cases h; exact .inr ⟨v, by simpa using he, hv, rfl, rfl⟩

theorem pop_empty {s : State} (h : s.queue.isEmpty = true) : pop s = .ok (none, s) := by simp [pop, h]

theorem pop_some {s : State} {v : Byte} (h : s.queue.isEmpty = false)
    (hv : s.queue.buf.read s.queue.tail = some v) :
    pop s = .ok (some v, { s with queue := { s.queue with tail := (s.queue.tail + 1) % s.params.qcap, full := false } }) := by
  simp [pop, h, hv]

/-- `Q.POP` faults only on a slot that nothing has written. -/
theorem pop_fault {s : State} {f : Fault} (h : pop s = .error f) :
    s.queue.isEmpty = false ∧ s.queue.buf.read s.queue.tail = none ∧ f = .uninitialised .queue := by
  simp only [pop] at h
  split at h
  · cases h
  · next he =>
    split at h
    · next hn => cases h; exact ⟨by simpa using he, hn, rfl⟩
    · cases h

/-! ## Waits -/

/-- A failed poll counts down, and raises Timeout at 0, else waits (45_transport_exchange.md R263, R266). -/
theorem failedPoll_cases (s : State) :
    ((countDown s).transport.tmo = 0#16 ∧ failedPoll s = raise .timeout (countDown s)) ∨
    ((countDown s).transport.tmo ≠ 0#16 ∧ failedPoll s = (countDown s).emit .waitForEvent) := by
  simp only [failedPoll]
  split
  · next h => exact .inl ⟨h, rfl⟩
  · next h => exact .inr ⟨h, rfl⟩

/-- A failed poll of the transmitter (R264). -/
theorem failedReadyPoll_cases (s : State) :
    ((countDown s).transport.tmo = 0#16 ∧ failedReadyPoll s = raise .timeout (countDown s)) ∨
    ((countDown s).transport.tmo ≠ 0#16 ∧ failedReadyPoll s = countDown s) := by
  simp only [failedReadyPoll]
  split
  · next h => exact .inl ⟨h, rfl⟩
  · next h => exact .inr ⟨h, rfl⟩

/-- One poll of a receive: the queue was empty and the poll failed, or a byte went to its use (R266). -/
theorem pollQueue_cases {s t : State} {f : Byte → State → Except Fault State} (h : pollQueue s f = .ok t) :
    (s.queue.isEmpty = true ∧ t = failedPoll s) ∨
    (∃ v, s.queue.isEmpty = false ∧ s.queue.buf.read s.queue.tail = some v ∧
      f v { s with queue := { s.queue with tail := (s.queue.tail + 1) % s.params.qcap, full := false } } = .ok t) := by
  simp only [pollQueue] at h
  split at h
  · cases h
  · next v u hp =>
    rcases pop_cases hp with ⟨_, hr, _⟩ | ⟨w, he, hw, hr, hu⟩
    · cases hr
    · cases hr; subst hu; exact .inr ⟨_, he, hw, h⟩
  · next u hp =>
    rcases pop_cases hp with ⟨he, _, hu⟩ | ⟨w, _, _, hr, _⟩
    · subst hu; cases h; exact .inl ⟨he, rfl⟩
    · cases hr

theorem pollQueue_empty {s : State} (f : Byte → State → Except Fault State) (h : s.queue.isEmpty = true) :
    pollQueue s f = .ok (failedPoll s) := by simp [pollQueue, pop_empty h]

theorem pollQueue_byte {s : State} {v : Byte} (f : Byte → State → Except Fault State) (h : s.queue.isEmpty = false)
    (hv : s.queue.buf.read s.queue.tail = some v) :
    pollQueue s f =
      f v { s with queue := { s.queue with tail := (s.queue.tail + 1) % s.params.qcap, full := false } } := by
  simp [pollQueue, pop_some h hv]

/-- A poll of a receive faults on an unwritten slot or in the use of the byte. -/
theorem pollQueue_fault {s : State} {f : Byte → State → Except Fault State} {e : Fault}
    (h : pollQueue s f = .error e) :
    (s.queue.isEmpty = false ∧ s.queue.buf.read s.queue.tail = none) ∨
    (∃ v, s.queue.isEmpty = false ∧ s.queue.buf.read s.queue.tail = some v ∧
      f v { s with queue := { s.queue with tail := (s.queue.tail + 1) % s.params.qcap, full := false } } = .error e) := by
  simp only [pollQueue] at h
  split at h
  · next hp => exact .inl ⟨(pop_fault hp).1, (pop_fault hp).2.1⟩
  · next v u hp =>
    rcases pop_cases hp with ⟨_, hr, _⟩ | ⟨w, he, hw, hr, hu⟩
    · cases hr
    · cases hr; subst hu; exact .inr ⟨_, he, hw, h⟩
  · cases h

/-! ## The builder -/

/-- What a build does (42_frame_builder.md R166): the payload was loaded, and the frame stands in `TXBUF`. -/
theorem buildFrame_cases {cmd : Byte} {s t : State} (h : buildFrame cmd s = .ok t) :
    ∃ payload, s.builder.payin.readRange 0 s.builder.paylen.toNat = some payload ∧
      t = { s with
        crcacc := requestCrc cmd payload
        builder := { s.builder with
          cmdin := cmd
          txbuf := s.builder.txbuf.writeRange 0 (requestFrame cmd payload)
          txlen := BitVec.ofNat 9 (payload.length + 6) } } := by
  simp only [buildFrame] at h
  split at h
  · cases h
  · next payload hp => cases h; exact ⟨payload, hp, rfl⟩

/-- A build faults only where the payload was not loaded. -/
theorem buildFrame_fault {cmd : Byte} {s : State} {f : Fault} (h : buildFrame cmd s = .error f) :
    s.builder.payin.readRange 0 s.builder.paylen.toNat = none := by
  simp only [buildFrame] at h
  split at h
  · next hp => exact hp
  · cases h

/-- A request row's build answers `OK(TXLEN)`. -/
theorem finishBuild_cases {r : Except Fault State} {t : State} (h : finishBuild r = .ok t) :
    ∃ u, r = .ok u ∧ t = finish (u.builder.txlen.setWidth 16) u := by
  cases r with
  | error f => cases h
  | ok u => cases h; exact ⟨u, rfl, rfl⟩

/-! ## The baud controller -/

/-- What one invocation does (44_baud.md R230): a warm-up records the percentage; an evaluation of a good link records
it and zeroes the counters; an evaluation of a poor link also moves `BAUD` and configures the link. -/
theorem baudStep_cases (s : State) :
    (s.link.sent.toNat < warmupLength s.link ∧
      baudStep s = { s with link := { s.link with lastpct := storedPct (successPct s.link) } }) ∨
    (warmupLength s.link ≤ s.link.sent.toNat ∧ Config.pctGood ≤ successPct s.link ∧
      baudStep s = { s with link := { s.link with
        lastpct := storedPct (successPct s.link), sent := 0#16, recv := 0#16 } }) ∨
    (warmupLength s.link ≤ s.link.sent.toNat ∧ successPct s.link < Config.pctGood ∧
      baudStep s = reconfigure { s with link :=
        ⟨movedBaud (nextDir (successPct s.link) s.link) s.link.baud, nextDir (successPct s.link) s.link,
          storedPct (successPct s.link), 0#16, 0#16⟩ }) := by
  simp only [baudStep]
  split
  · next h => exact .inl ⟨h, rfl⟩
  · next h =>
    split
    · next hp => exact .inr (.inr ⟨by omega, hp, rfl⟩)
    · next hp => exact .inr (.inl ⟨by omega, by omega, rfl⟩)

/-! ## The transport driver -/

/-- The end of a transmission (45_transport_exchange.md R262, R284). -/
theorem endSend_cases (s : State) :
    (s.seq.xstate.running = true ∧ endSend s = startEcho { s with seq := { s.seq with xstate := .awaitEcho } }) ∨
    (s.seq.xstate.running = false ∧ endSend s = finish 0#16 s) := by
  simp only [endSend]
  split
  · next h => exact .inl ⟨h, rfl⟩
  · next h => exact .inr ⟨by simpa using h, rfl⟩

/-- Phase B goes on with the next byte or ends (R264). -/
theorem nextSendByte_cases (s : State) :
    (s.transport.txidx < s.builder.txlen.toNat ∧ nextSendByte s = { loadTxTimeout s with task := .sendByte }) ∨
    (s.builder.txlen.toNat ≤ s.transport.txidx ∧ nextSendByte s = endSend s) := by
  simp only [nextSendByte]
  split
  · next h => exact .inl ⟨h, rfl⟩
  · next h => exact .inr ⟨by omega, rfl⟩

/-- One poll of phase A (R263). -/
theorem sendWaitPoll_cases (s : State) :
    (s.transport.txdone = true ∧ sendWaitPoll s = nextSendByte
      (State.emit { s with transport := { s.transport with txdone := false, txidx := 0 } } .enableTransmit)) ∨
    (s.transport.txdone = false ∧ sendWaitPoll s = failedPoll s) := by
  simp only [sendWaitPoll]
  split
  · next h => exact .inl ⟨h, rfl⟩
  · next h => exact .inr ⟨by simpa using h, rfl⟩

/-- One poll of phase B (R264): the byte at the transmit index goes out, or the poll failed. -/
theorem sendBytePoll_cases {ready : Option Bool} {s t : State} (h : sendBytePoll ready s = .ok t) :
    ∃ u, (u = s ∨ u = { s with draws := s.draws + 1 }) ∧
      ((∃ b, u.builder.txbuf.read u.transport.txidx = some b ∧ t = nextSendByte
        (State.emit { u with transport := { u.transport with txidx := u.transport.txidx + 1 } } (.transmitByte b))) ∨
      t = failedReadyPoll u) := by
  simp only [sendBytePoll] at h
  have hu : (transmitReady ready s).2 = s ∨ (transmitReady ready s).2 = { s with draws := s.draws + 1 } := by
    cases ready with
    | none => exact .inr rfl
    | some b => exact .inl rfl
  refine ⟨(transmitReady ready s).2, hu, ?_⟩
  split at h
  · split at h
    · cases h
    · next b hb => cases h; exact .inl ⟨b, hb, rfl⟩
  · cases h; exact .inr rfl

/-- Phase B faults only on a byte of `TXBUF` that nothing has written. -/
theorem sendBytePoll_fault {ready : Option Bool} {s : State} {f : Fault} (h : sendBytePoll ready s = .error f) :
    s.builder.txbuf.read s.transport.txidx = none := by
  simp only [sendBytePoll] at h
  have hu : (transmitReady ready s).2.builder = s.builder ∧ (transmitReady ready s).2.transport = s.transport := by
    cases ready <;> exact ⟨rfl, rfl⟩
  split at h
  · split at h
    · next hb => rw [hu.1, hu.2] at hb; exact hb
    · cases h
  · cases h

/-! ## The echo verifier -/

/-- The end of an echo (45_transport_exchange.md R275, R285). -/
theorem endEcho_cases (s : State) :
    (s.seq.xstate.running = true ∧ endEcho s = startParse { s with seq := { s.seq with xstate := .awaitResponse } }) ∨
    (s.seq.xstate.running = false ∧ endEcho s = finish 0#16 s) := by
  simp only [endEcho]
  split
  · next h => exact .inl ⟨h, rfl⟩
  · next h => exact .inr ⟨by simpa using h, rfl⟩

/-- A byte of the echo matched (R275). -/
theorem echoMatched_cases (i : BitVec 9) (s : State) :
    (i.toNat < s.builder.txlen.toNat ∧ echoMatched i s = loadRxTimeout { s with seq := { s.seq with eidx := i } }) ∨
    (s.builder.txlen.toNat ≤ i.toNat ∧ echoMatched i s = endEcho { s with seq := { s.seq with eidx := i } }) := by
  simp only [echoMatched]
  split
  · next h => exact .inl ⟨h, rfl⟩
  · next h => exact .inr ⟨by omega, rfl⟩

/-- What the echo verifier does with a byte (R275). -/
theorem echoByte_cases {b : Byte} {s t : State} (h : echoByte b s = .ok t) :
    (s.seq.eidx = 0#9 ∧ s.builder.txbuf.read 0 = some b ∧ t = echoMatched 1#9 s) ∨
    (s.seq.eidx = 0#9 ∧ s.builder.txbuf.read 0 ≠ some b ∧ s.builder.txbuf.read 1 = some b ∧ t = echoMatched 2#9 s) ∨
    (s.seq.eidx = 0#9 ∧ s.builder.txbuf.read 0 ≠ some b ∧ s.builder.txbuf.read 1 ≠ some b ∧
      t = raise .echoMismatch s) ∨
    (s.seq.eidx ≠ 0#9 ∧ s.builder.txbuf.read s.seq.eidx.toNat = some b ∧ t = echoMatched (s.seq.eidx + 1#9) s) ∨
    (s.seq.eidx ≠ 0#9 ∧ s.builder.txbuf.read s.seq.eidx.toNat ≠ some b ∧ t = raise .echoMismatch s) := by
  simp only [echoByte] at h
  split at h
  · next he =>
    split at h
    · cases h
    · next t0 h0 =>
      split at h
      · next hb => cases h; subst hb; exact .inl ⟨he, h0, rfl⟩
      · next hb =>
        have hb0 : s.builder.txbuf.read 0 ≠ some b := by rw [h0]; simpa using Ne.symm hb
        split at h
        · cases h
        · next t1 h1 =>
          split at h
          · next hb1 => cases h; subst hb1; exact .inr (.inl ⟨he, hb0, h1, rfl⟩)
          · next hb1 =>
            cases h
            exact .inr (.inr (.inl ⟨he, hb0, by rw [h1]; simpa using Ne.symm hb1, rfl⟩))
  · next he =>
    split at h
    · cases h
    · next t0 h0 =>
      split at h
      · next hb => cases h; subst hb; exact .inr (.inr (.inr (.inl ⟨he, h0, rfl⟩)))
      · next hb =>
        cases h
        exact .inr (.inr (.inr (.inr ⟨he, by rw [h0]; simpa using Ne.symm hb, rfl⟩)))

/-- The echo verifier faults only on a byte of `TXBUF` that nothing has written. -/
theorem echoByte_fault {b : Byte} {s : State} {f : Fault} (h : echoByte b s = .error f) :
    s.builder.txbuf.read 0 = none ∨ (s.seq.eidx = 0#9 ∧ s.builder.txbuf.read 1 = none) ∨
    s.builder.txbuf.read s.seq.eidx.toNat = none := by
  simp only [echoByte] at h
  split at h
  · next he =>
    split at h
    · next h0 => exact .inl h0
    · split at h
      · cases h
      · split at h
        · next h1 => exact .inr (.inl ⟨he, h1⟩)
        · split at h <;> cases h
  · split at h
    · next h0 => exact .inr (.inr h0)
    · split at h <;> cases h

/-! ## The parser -/

/-- Stage 1 with a byte (43_frame_parser.md R181): the magic is complete; or the discards stay within three; or the
fourth discard raises InvalidMagic. -/
theorem syncByte_cases (b : Byte) (s : State) :
    (s.parser.haveaa = true ∧ b = Config.magic1 ∧ syncByte b s =
      loadRxTimeout { s with parser := { s.parser with pstate := .cmd, rxcrc := Config.rxcrcSeed } }) ∨
    (¬ (s.parser.haveaa = true ∧ b = Config.magic1) ∧ ∃ n, n = s.parser.ndisc.toNat + (if s.parser.haveaa then 1 else 0) +
        (if b == Config.magic0 then 0 else 1) ∧
      ((n ≤ Config.resyncMax ∧ syncByte b s =
        loadRxTimeout { s with parser := { s.parser with ndisc := BitVec.ofNat 3 n, haveaa := b == Config.magic0 } }) ∨
      (Config.resyncMax < n ∧ syncByte b s =
        raise .invalidMagic
          { s with parser := { s.parser with ndisc := BitVec.ofNat 3 n, haveaa := b == Config.magic0 } }))) := by
  by_cases h : s.parser.haveaa = true ∧ b = Config.magic1
  · left; exact ⟨h.1, h.2, by simp [syncByte, h.1, h.2]⟩
  · right
    refine ⟨h, _, rfl, ?_⟩
    have h' : (s.parser.haveaa && b == Config.magic1) = false := by
      cases hh : s.parser.haveaa
      · rfl
      · simpa [hh] using h
    by_cases hn : Config.resyncMax < s.parser.ndisc.toNat + (if s.parser.haveaa then 1 else 0) +
        (if b == Config.magic0 then 0 else 1)
    · exact .inr ⟨hn, by simp only [syncByte, h', if_pos hn]; rfl⟩
    · exact .inl ⟨Nat.le_of_not_lt hn, by simp only [syncByte, h', if_neg hn]; rfl⟩

/-- The end of stage 3 (R185). -/
theorem endPayload_cases (s : State) :
    (isLegacyId s.parser.rxcmd = true ∧ endPayload s = { s with task := .dispatch }) ∨
    (isLegacyId s.parser.rxcmd = false ∧
      endPayload s = loadRxTimeout { s with parser := { s.parser with pstate := .crc } }) := by
  simp only [endPayload]
  split
  · next h => exact .inl ⟨h, rfl⟩
  · next h => exact .inr ⟨by simpa using h, rfl⟩

/-- Stage 3 goes on or ends (R184). -/
theorem nextPayload_cases (s : State) :
    (s.parser.pidx.toNat < s.parser.rxlen.toNat ∧ nextPayload s = loadRxTimeout s) ∨
    (s.parser.rxlen.toNat ≤ s.parser.pidx.toNat ∧ nextPayload s = endPayload s) := by
  simp only [nextPayload]
  split
  · next h => exact .inl ⟨h, rfl⟩
  · next h => exact .inr ⟨by omega, rfl⟩

/-- Stage 4 with a byte (R185). -/
theorem crcStageByte_cases (b : Byte) (s : State) :
    (b = s.parser.rxcrc ∧ crcStageByte b s = { s with task := .dispatch }) ∨
    (b ≠ s.parser.rxcrc ∧ crcStageByte b s = raise .crcMismatch s) := by
  simp only [crcStageByte]
  split
  · next h => exact .inl ⟨by simpa using h, rfl⟩
  · next h => exact .inr ⟨by simpa using h, rfl⟩

/-- A read of the payload by the dispatch (R197): the byte received inside the frame; outside it a free value, and the
draw is counted. -/
theorem readPayload_cases {i : Nat} {s t : State} {v : Byte} (h : readPayload i s = .ok (v, t)) :
    (i < s.parser.rxlen.toNat ∧ s.parser.pb.read i = some v ∧ t = s) ∨
    (s.parser.rxlen.toNat ≤ i ∧ v = Config.freeByte s.draws ∧ t = { s with draws := s.draws + 1 }) := by
  simp only [readPayload] at h
  split at h
  · next hi =>
    split at h
    · next w hw => cases h; exact .inl ⟨hi, hw, rfl⟩
    · cases h
  · next hi => cases h; exact .inr ⟨by omega, rfl, rfl⟩

/-- A read of the payload faults only on a byte of the frame that was not received. -/
theorem readPayload_fault {i : Nat} {s : State} {f : Fault} (h : readPayload i s = .error f) :
    i < s.parser.rxlen.toNat ∧ s.parser.pb.read i = none := by
  simp only [readPayload] at h
  split at h
  · next hi =>
    split at h
    · cases h
    · next hn => exact ⟨hi, hn⟩
  · cases h

/-- A read of the payload answers wherever the frame's bytes were received, and changes only the draw counter. -/
theorem readPayload_ok {i : Nat} {s : State}
    (h : ∀ k, k < s.parser.rxlen.toNat → (s.parser.pb.read k).isSome = true) :
    ∃ v n, readPayload i s = .ok (v, { s with draws := n }) ∧ (i < s.parser.rxlen.toNat → s.parser.pb.read i = some v) := by
  simp only [readPayload]
  split
  · next hi =>
    obtain ⟨v, hv⟩ := Option.isSome_iff_exists.mp (h i hi)
    exact ⟨v, s.draws, by simp [hv], fun _ => hv⟩
  · next hi => exact ⟨_, _, rfl, fun hh => absurd hh hi⟩

/-! ## The micro-steps, one for each operation in progress -/

section
variable {s : State} (ready : Option Bool)
theorem microStep_idle (h : s.task = .idle) : microStep ready s = .ok s := by simp [microStep, h]
theorem microStep_clearQueue (h : s.task = .clearQueue) :
    microStep ready s = .ok { clearQueue s with task := .stepBaud } := by simp [microStep, h]
theorem microStep_stepBaud (h : s.task = .stepBaud) :
    microStep ready s = .ok { baudStep s with task := .countSent } := by simp [microStep, h]
theorem microStep_countSent (h : s.task = .countSent) : microStep ready s = .ok (countSent s) := by simp [microStep, h]
theorem microStep_sendWait (h : s.task = .sendWait) : microStep ready s = .ok (sendWaitPoll s) := by simp [microStep, h]
theorem microStep_sendByte (h : s.task = .sendByte) : microStep ready s = sendBytePoll ready s := by simp [microStep, h]
theorem microStep_recv (h : s.task = .recv) : microStep ready s = pollQueue s recvByte := by simp [microStep, h]
theorem microStep_expect {v : Byte} (h : s.task = .expect v) :
    microStep ready s = pollQueue s (expectByte v) := by simp [microStep, h]
theorem microStep_echo (h : s.task = .echo) : microStep ready s = pollQueue s echoByte := by simp [microStep, h]
theorem microStep_parse (h : s.task = .parse) : microStep ready s = pollQueue s parseByte := by simp [microStep, h]
theorem microStep_dispatch (h : s.task = .dispatch) : microStep ready s = dispatch s := by simp [microStep, h]
end

/-! ## The dispatch -/

/-- What the dispatch can do where the frame's bytes were received (43_frame_parser.md R186, R195, R196): commit some
settings, having drawn some free values and perhaps recorded the legacy check, or raise UnknownCommand with the response
counted. -/
theorem dispatch_cases {s t : State} (hpb : ∀ i, i < s.parser.rxlen.toNat → (s.parser.pb.read i).isSome = true)
    (h : dispatch s = .ok t) :
    (∃ v n l, t = commit v { s with draws := n, parser := { s.parser with legacyok := l } }) ∨
    t = raise .unknownCommand { s with link := { s.link with recv := s.link.recv + 1#16 } } := by
  have read0 : ∀ i, ∃ v n, readPayload i s = .ok (v, { s with draws := n }) := fun i => by
    obtain ⟨v, n, e, -⟩ := readPayload_ok (i := i) hpb; exact ⟨v, n, e⟩
  have read1 : ∀ i n, ∃ v m, readPayload i { s with draws := n } = .ok (v, { s with draws := m }) := fun i n => by
    obtain ⟨v, m, e, -⟩ := readPayload_ok (i := i) (s := { s with draws := n }) hpb; exact ⟨v, m, e⟩
  have read2 : ∀ i n l, ∃ v m, readPayload i { s with draws := n, parser := { s.parser with legacyok := l } } =
      .ok (v, { s with draws := m, parser := { s.parser with legacyok := l } }) := fun i n l => by
    obtain ⟨v, m, e, -⟩ := readPayload_ok (i := i)
      (s := { s with draws := n, parser := { s.parser with legacyok := l } }) hpb
    exact ⟨v, m, e⟩
  have settings : ∀ ver, decodeGetSettings ver s = .ok t →
      ∃ v n l, t = commit v { s with draws := n, parser := { s.parser with legacyok := l } } := by
    intro ver h
    obtain ⟨v5, n5, e5⟩ := read0 5
    obtain ⟨v0, n0, e0⟩ := read2 0 n5 (s.parser.rxcrc == v5)
    obtain ⟨v1, n1, e1⟩ := read2 1 n0 (s.parser.rxcrc == v5)
    obtain ⟨v2, n2, e2⟩ := read2 2 n1 (s.parser.rxcrc == v5)
    obtain ⟨v3, n3, e3⟩ := read2 3 n2 (s.parser.rxcrc == v5)
    obtain ⟨v4, n4, e4⟩ := read2 4 n3 (s.parser.rxcrc == v5)
    simp only [decodeGetSettings, e5, Config.legacyCheckFatal, Bool.false_and, bind, Except.bind, pure,
      Except.pure] at h
    simp only [e0, e1, e2, e3, e4, if_neg Bool.false_ne_true] at h
    cases h; exact ⟨_, _, _, rfl⟩
  simp only [dispatch] at h
  split at h
  · exact .inl (settings _ h)
  split at h
  · exact .inl (settings _ h)
  split at h
  · exact .inl (settings _ h)
  split at h
  · obtain ⟨v0, n0, e0⟩ := read0 0
    obtain ⟨v1, n1, e1⟩ := read1 1 n0
    simp only [decodeSetFrequency, e0, e1, bind, Except.bind, pure, Except.pure] at h
    cases h; exact .inl ⟨_, _, s.parser.legacyok, rfl⟩
  split at h
  · obtain ⟨v0, n0, e0⟩ := read0 0
    simp only [decodeSetChannel, e0, bind, Except.bind, pure, Except.pure] at h
    cases h; exact .inl ⟨_, _, s.parser.legacyok, rfl⟩
  split at h
  · obtain ⟨v0, n0, e0⟩ := read0 0
    obtain ⟨v1, n1, e1⟩ := read1 0 n0
    obtain ⟨v2, n2, e2⟩ := read1 1 n1
    obtain ⟨v3, n3, e3⟩ := read1 1 n2
    obtain ⟨v4, n4, e4⟩ := read1 0 n3
    simp only [decodeSetPower, e0, e1, e2, e3, e4, bind, Except.bind, pure, Except.pure] at h
    cases h; exact .inl ⟨_, _, s.parser.legacyok, rfl⟩
  split at h
  · obtain ⟨v0, n0, e0⟩ := read0 0
    simp only [decodeSetMode, e0, bind, Except.bind, pure, Except.pure] at h
    cases h; exact .inl ⟨_, _, s.parser.legacyok, rfl⟩
  · cases h; exact .inr rfl

/-! ## Receiving a frame -/

@[simp] theorem feed_nil (s : State) : feed [] s = .ok s := rfl

/-- The bytes of a frame one by one. -/
theorem feed_cons {b : Byte} {rest : List Byte} {s t : State} (h : microStep none (receiveEvent b s) = .ok t) :
    feed (b :: rest) s = feed rest t := by simp [feed, h]

/-- What feeding a frame can do: each byte arrives and agent C takes one micro-step. -/
theorem feed_cons_cases {b : Byte} {rest : List Byte} {s u : State} (h : feed (b :: rest) s = .ok u) :
    ∃ t, microStep none (receiveEvent b s) = .ok t ∧ feed rest t = .ok u := by
  simp only [feed] at h
  split at h
  · cases h
  · next t ht => exact ⟨t, ht, h⟩

/-- Feeding bytes keeps whatever an arrival and a micro-step keep. -/
theorem feed_keeps {P : State → Prop} (hr : ∀ b s, P s → P (receiveEvent b s))
    (hm : ∀ s t, P s → microStep none s = .ok t → P t) {bytes : List Byte} {s u : State} (hs : P s)
    (h : feed bytes s = .ok u) : P u := by
  induction bytes generalizing s with
  | nil => cases h; exact hs
  | cons b rest ih =>
    obtain ⟨t, ht, hu⟩ := feed_cons_cases h
    exact ih (hm _ _ (hr b s hs) ht) hu

/-- Feeding bytes does not fault where no micro-step of a kept property does. -/
theorem feed_no_fault {P : State → Prop} (hr : ∀ b s, P s → P (receiveEvent b s))
    (hm : ∀ s t, P s → microStep none s = .ok t → P t) (hf : ∀ s f, P s → microStep none s ≠ .error f)
    {bytes : List Byte} {s : State} (hs : P s) (f : Fault) : feed bytes s ≠ .error f := by
  induction bytes generalizing s with
  | nil => intro h; cases h
  | cons b rest ih =>
    intro h
    simp only [feed] at h
    split at h
    · next g hg => exact hf _ _ (hr b s hs) hg
    · next t ht => exact ih (hm _ _ (hr b s hs) ht) h

end Sys2Proof.Machine
end

