-- ==== Sys2Proof/Laws/PerInstr.lean ====
section
/-! SUPPORT. Statements about every instruction, one lemma for each constructor. `EncodesItsRow`: the packet of an
instruction has the width and the fixed bits of its row of spec/opcode_table.json (a frame row's one byte is its command
byte: byte 3 of a request, byte 2 of a response). -/

namespace Sys2Proof.Laws

open Sys2Proof.Machine

/-- The kind of packet a row of the opcode table describes. -/
inductive Port where
  | command
  | event
  | request
  | response
deriving DecidableEq, Repr

/-- The port and the fixed bits of a packet, as the table's mask selects them. -/
def fixedBits : Packet → Port × Nat
  | .cmd w => (.command, w.toNat / 256 * 256)
  | .ev w => (.event, w.toNat / 256 * 256)
  | .req bytes => (.request, (bytes.getD 3 0#8).toNat)
  | .rsp bytes => (.response, (bytes.getD 2 0#8).toNat)

/-- The port and the match value of an instruction's row; the row of the unknown response fixes no bit. -/
def tableRow : Instr → Option (Port × Nat)
  | .qPop => some (.command, 0x100)
  | .qAvail => some (.command, 0x200)
  | .qClear => some (.command, 0x300)
  | .crcInit => some (.command, 0x400)
  | .crcUpd _ => some (.command, 0x500)
  | .fbBuild _ => some (.command, 0x600)
  | .brStep => some (.command, 0x700)
  | .brReconf => some (.command, 0x800)
  | .tSend => some (.command, 0x900)
  | .tRecv => some (.command, 0xA00)
  | .tExpect _ => some (.command, 0xB00)
  | .xEcho => some (.command, 0xC00)
  | .fpParse => some (.command, 0xD00)
  | .xCmd _ => some (.command, 0xE00)
  | .reserved0 => some (.command, 0x000)
  | .reservedF => some (.command, 0xF00)
  | .evRx _ => some (.event, 0x000)
  | .evTxc => some (.event, 0x100)
  | .reqGetSettings _ => some (.request, 0x03)
  | .reqSetPower _ => some (.request, 0x05)
  | .reqSetChannel _ => some (.request, 0x07)
  | .reqSetFrequency _ => some (.request, 0x09)
  | .reqSetMode _ => some (.request, 0x0B)
  | .reqGetSettingsV2 _ => some (.request, 0x13)
  | .reqGetSettingsV21 _ => some (.request, 0x23)
  | .rspGetSettings _ => some (.response, 0x01)
  | .rspSetPower _ _ => some (.response, 0x02)
  | .rspSetChannel _ _ => some (.response, 0x03)
  | .rspSetFrequency _ _ => some (.response, 0x04)
  | .rspSetMode _ _ => some (.response, 0x05)
  | .rspGetSettingsV2 _ => some (.response, 0x09)
  | .rspGetSettingsV21 _ _ => some (.response, 0x11)
  | .rspUnknown _ _ _ => none

/-- The packet of the instruction carries its row's fixed bits. -/
def EncodesItsRow.Statement (i : Instr) : Prop := ∀ row, tableRow i = some row → fixedBits (encode i) = row

/-- A request word's operation code is its bits above `ARG`. -/
theorem fixedBits_commandWord (op : BitVec 4) (arg : Byte) :
    fixedBits (commandWord op arg) = (.command, op.toNat * 256) := by
  have := arg.isLt
  simp only [fixedBits, commandWord, BitVec.toNat_append, Prod.mk.injEq, true_and]
  rw [← Nat.shiftLeft_add_eq_or_of_lt this, Nat.shiftLeft_eq]; omega

/-- An event word's event bit is its bit above `DATA`. -/
theorem fixedBits_eventWord (ev : BitVec 1) (data : Byte) :
    fixedBits (eventWord ev data) = (.event, ev.toNat * 256) := by
  have := data.isLt
  simp only [fixedBits, eventWord, BitVec.toNat_append, Prod.mk.injEq, true_and]
  rw [← Nat.shiftLeft_add_eq_or_of_lt this, Nat.shiftLeft_eq]; omega

theorem EncodesItsRow.qPop : EncodesItsRow.Statement (.qPop) := by
  intro row h; cases h; exact fixedBits_commandWord _ _
theorem EncodesItsRow.qAvail : EncodesItsRow.Statement (.qAvail) := by
  intro row h; cases h; exact fixedBits_commandWord _ _
theorem EncodesItsRow.qClear : EncodesItsRow.Statement (.qClear) := by
  intro row h; cases h; exact fixedBits_commandWord _ _
theorem EncodesItsRow.crcInit : EncodesItsRow.Statement (.crcInit) := by
  intro row h; cases h; exact fixedBits_commandWord _ _
theorem EncodesItsRow.crcUpd (x) : EncodesItsRow.Statement (.crcUpd x) := by
  intro row h; cases h; exact fixedBits_commandWord _ _
theorem EncodesItsRow.fbBuild (x) : EncodesItsRow.Statement (.fbBuild x) := by
  intro row h; cases h; exact fixedBits_commandWord _ _
theorem EncodesItsRow.brStep : EncodesItsRow.Statement (.brStep) := by
  intro row h; cases h; exact fixedBits_commandWord _ _
theorem EncodesItsRow.brReconf : EncodesItsRow.Statement (.brReconf) := by
  intro row h; cases h; exact fixedBits_commandWord _ _
theorem EncodesItsRow.tSend : EncodesItsRow.Statement (.tSend) := by
  intro row h; cases h; exact fixedBits_commandWord _ _
theorem EncodesItsRow.tRecv : EncodesItsRow.Statement (.tRecv) := by
  intro row h; cases h; exact fixedBits_commandWord _ _
theorem EncodesItsRow.tExpect (x) : EncodesItsRow.Statement (.tExpect x) := by
  intro row h; cases h; exact fixedBits_commandWord _ _
theorem EncodesItsRow.xEcho : EncodesItsRow.Statement (.xEcho) := by
  intro row h; cases h; exact fixedBits_commandWord _ _
theorem EncodesItsRow.fpParse : EncodesItsRow.Statement (.fpParse) := by
  intro row h; cases h; exact fixedBits_commandWord _ _
theorem EncodesItsRow.xCmd (x) : EncodesItsRow.Statement (.xCmd x) := by
  intro row h; cases h; exact fixedBits_commandWord _ _
theorem EncodesItsRow.reserved0 : EncodesItsRow.Statement (.reserved0) := by
  intro row h; cases h; exact fixedBits_commandWord _ _
theorem EncodesItsRow.reservedF : EncodesItsRow.Statement (.reservedF) := by
  intro row h; cases h; exact fixedBits_commandWord _ _
theorem EncodesItsRow.evRx (x) : EncodesItsRow.Statement (.evRx x) := by
  intro row h; cases h; exact fixedBits_eventWord _ _
theorem EncodesItsRow.evTxc : EncodesItsRow.Statement (.evTxc) := by
  intro row h; cases h; exact fixedBits_eventWord _ _
theorem EncodesItsRow.reqGetSettings (x) : EncodesItsRow.Statement (.reqGetSettings x) := by
  intro row h; cases h; rfl
theorem EncodesItsRow.reqSetPower (x) : EncodesItsRow.Statement (.reqSetPower x) := by
  intro row h; cases h; rfl
theorem EncodesItsRow.reqSetChannel (x) : EncodesItsRow.Statement (.reqSetChannel x) := by
  intro row h; cases h; rfl
theorem EncodesItsRow.reqSetFrequency (x) : EncodesItsRow.Statement (.reqSetFrequency x) := by
  intro row h; cases h; rfl
theorem EncodesItsRow.reqSetMode (x) : EncodesItsRow.Statement (.reqSetMode x) := by
  intro row h; cases h; rfl
theorem EncodesItsRow.reqGetSettingsV2 (x) : EncodesItsRow.Statement (.reqGetSettingsV2 x) := by
  intro row h; cases h; rfl
theorem EncodesItsRow.reqGetSettingsV21 (x) : EncodesItsRow.Statement (.reqGetSettingsV21 x) := by
  intro row h; cases h; rfl
theorem EncodesItsRow.rspGetSettings (x) : EncodesItsRow.Statement (.rspGetSettings x) := by
  intro row h; cases h; rfl
theorem EncodesItsRow.rspSetPower (x y) : EncodesItsRow.Statement (.rspSetPower x y) := by
  intro row h; cases h; rfl
theorem EncodesItsRow.rspSetChannel (x y) : EncodesItsRow.Statement (.rspSetChannel x y) := by
  intro row h; cases h; rfl
theorem EncodesItsRow.rspSetFrequency (x y) : EncodesItsRow.Statement (.rspSetFrequency x y) := by
  intro row h; cases h; rfl
theorem EncodesItsRow.rspSetMode (x y) : EncodesItsRow.Statement (.rspSetMode x y) := by
  intro row h; cases h; rfl
theorem EncodesItsRow.rspGetSettingsV2 (x) : EncodesItsRow.Statement (.rspGetSettingsV2 x) := by
  intro row h; cases h; rfl
theorem EncodesItsRow.rspGetSettingsV21 (x y) : EncodesItsRow.Statement (.rspGetSettingsV21 x y) := by
  intro row h; cases h; rfl
theorem EncodesItsRow.rspUnknown (x y z) : EncodesItsRow.Statement (.rspUnknown x y z) := by
  intro row h; cases h

end Sys2Proof.Laws
end

