-- ==== Sys2Proof/Laws/Rows.lean ====
section
/-! SUPPORT. What a response row can do: it is a chain of arrivals, at most one start of a parse, and micro-steps, so
whatever each of these keeps, the row keeps. -/

namespace Sys2Proof.Machine

theorem feed_moves {bytes : List Byte} {s t : State} (h : feed bytes s = .ok t) :
    Relation.ReflTransGen RowMove s t := by
  induction bytes generalizing s with
  | nil => cases h; exact .refl
  | cons b rest ih =>
    simp only [feed] at h
    split at h
    · cases h
    · next u hu => exact .head (.arrival b s) (.head (.micro none _ u hu) (ih h))

/-- A response row that completes is such a chain. -/
theorem receiveFrame_moves {frame : List Byte} {s t : State} (h : receiveFrame frame s = .ok t) :
    Relation.ReflTransGen RowMove s t := by
  simp only [receiveFrame] at h
  split at h
  · cases h
  · next u hu =>
    have start : Relation.ReflTransGen RowMove s u := by
      split at hu
      · next ha => exact .head (.parseBegins s ha) (feed_moves hu)
      · exact feed_moves hu
    split at h
    · exact start.tail (.micro none u t h)
    · cases h; exact start

/-- What every transition of a row keeps, the row keeps. -/
theorem receiveFrame_keeps {P : State → Prop} (keep : ∀ s t, RowMove s t → P s → P t) {frame : List Byte}
    {s t : State} (h : receiveFrame frame s = .ok t) (hs : P s) : P t := by
  have moves := receiveFrame_moves h
  clear h
  induction moves with
  | refl => exact hs
  | tail _ hm ih => exact keep _ _ hm ih

end Sys2Proof.Machine
end

