-- ==== Sys2Proof/Tests/Slice0.lean ====
section
/-! SUPPORT. Named tests: the checks of WellFormed, the decoding of words written out from the spec's encodings, at most
two small steps for each instruction (expected values from the examples of spec/ named in each comment), and for every
statement with hypotheses a concrete state that meets them. -/

namespace Sys2Proof.Tests

/-! One theorem after the other: in parallel, these many kernel evaluations can ask for more threads than the memory limit
leaves room for. -/

set_option Elab.async false

open Sys2Proof Sys2Proof.Machine

/-! ## Helpers -/

/-- What is seen of an outcome that is a next state. -/
def seen {α : Type} (o : Host.Outcome State Fault Refusal) (f : State → α) : Option α :=
  match o with
  | .next t => some (f t)
  | .fault _ | .refused _ => none

/-- After reset, with this capacity and `TX_TIMEOUT` 3. -/
def fresh (qcap : Nat) : State := State.resetWith qcap 3#16

/-- A queue of capacity `cap` with its tail at `tail` that holds these bytes. -/
def queueWith (cap tail : Nat) (bytes : List Byte) : QueueState where
  buf := bytes.zipIdx.foldl (fun m c => m.write ((tail + c.2) % cap) c.1) []
  head := (tail + bytes.length) % cap
  tail := tail
  full := decide (bytes.length = cap)

/-- After reset, but for the queue. -/
def holding (cap tail : Nat) (bytes : List Byte) : State := { fresh cap with queue := queueWith cap tail bytes }

/-- The same with the frame of `SET_FREQUENCY [16 2C]` built. -/
def built (s : State) : State :=
  { s with builder := { s.builder with
    txbuf := Memory.writeRange [] 0 (builtFrame 0x04#8 [0x16#8, 0x2C#8]), txlen := 8#9 } }

/-- The same with a payload loaded. -/
def loaded (payload : List Byte) (s : State) : State := loadPayload payload s

/-- The same in the middle of an exchange's parse. -/
def awaiting (s : State) : State :=
  { s with task := .parse, seq := { s.seq with xstate := .awaitResponse },
           parser := { s.parser with pstate := .sync, ndisc := 0#3, haveaa := false } }

/-- The same with this link state. -/
def linked (l : LinkState) (s : State) : State := { s with link := l }

/-- The eight bytes of `SET_FREQUENCY [16 2C]` (42_frame_builder.md R173). -/
def frame8 : List Byte := [0x00#8, 0xAA#8, 0x55#8, 0x09#8, 0x02#8, 0x16#8, 0x2C#8, 0x85#8]

/-- The response of R191. -/
def reply7 : List Byte := [0xAA#8, 0x55#8, 0x04#8, 0x02#8, 0x16#8, 0x2C#8, 0xEB#8]

theorem queued_of {s : State} {bytes : List Byte}
    (h : 0 < s.params.qcap ∧ s.queue.head < s.params.qcap ∧ s.queue.tail < s.params.qcap ∧
      (s.queue.full = true → s.queue.head = s.queue.tail) ∧ s.queue.avail s.params.qcap = bytes.length ∧
      ∀ i, i < bytes.length → s.queue.buf.read ((s.queue.tail + i) % s.params.qcap) = bytes[i]?) : Queued s bytes :=
  ⟨⟨h.1, h.2.1, h.2.2.1, h.2.2.2.1⟩, ⟨h.2.2.2.2.1, h.2.2.2.2.2⟩⟩

theorem holdsFrame_of {s : State} {frame : List Byte} (h : s.builder.txlen.toNat = frame.length ∧
    ∀ i, i < frame.length → s.builder.txbuf.read i = frame[i]?) : HoldsFrame s frame := ⟨h.1, h.2⟩

theorem payloadLoaded_of {s : State} {payload : List Byte} (h : payload.length = s.builder.paylen.toNat ∧
    ∀ i, i < payload.length → s.builder.payin.read i = payload[i]?) : PayloadLoaded s payload := ⟨h.1, h.2⟩

theorem baudLegal_of {l : LinkState} (h : 4650 ≤ l.baud.toNat ∧ l.baud.toNat ≤ 4950 ∧
    (l.baud.toNat - 4650) % 50 = 0) : BaudLegal l := h

/-! ## Well-formedness: each check refuses an ill-formed term -/

theorem test_wf_request_too_long : (Instr.reqSetMode (List.replicate 256 0#8)).wf = false := by decide +kernel
theorem test_wf_request_longest : (Instr.reqSetMode (List.replicate 255 0#8)).wf = true := by decide +kernel
theorem test_wf_legacy_response_too_long : (Instr.rspGetSettings (List.replicate 256 0#8)).wf = false := by decide +kernel
theorem test_wf_response_too_long : (Instr.rspSetPower (List.replicate 256 0#8) 0#8).wf = false := by decide +kernel
theorem test_wf_unknown_too_long : (Instr.rspUnknown 0x20#8 (List.replicate 256 0#8) 0#8).wf = false := by decide +kernel
theorem test_wf_unknown_with_known_id : (Instr.rspUnknown 0x04#8 [] 0#8).wf = false := by decide +kernel
theorem test_wf_unknown_with_unknown_id : (Instr.rspUnknown 0x20#8 [] 0#8).wf = true := by decide +kernel

/-! ## Decoding: words written out from 30_encoding.md R110, R111, R113 -/

theorem test_decode_reserved0 : decode (.cmd 0b0000_00000000#12) = .ok .reserved0 := by rfl
theorem test_decode_qPop : decode (.cmd 0b0001_00000000#12) = .ok .qPop := by rfl
theorem test_decode_qAvail : decode (.cmd 0b0010_11111111#12) = .ok .qAvail := by rfl
theorem test_decode_qClear : decode (.cmd 0b0011_00000000#12) = .ok .qClear := by rfl
theorem test_decode_crcInit : decode (.cmd 0b0100_00000001#12) = .ok .crcInit := by rfl
theorem test_decode_crcUpd : decode (.cmd 0b0101_10100101#12) = .ok (.crcUpd 0xA5#8) := by rfl
theorem test_decode_fbBuild : decode (.cmd 0b0110_00000100#12) = .ok (.fbBuild 0x04#8) := by rfl
theorem test_decode_brStep : decode (.cmd 0b0111_00000000#12) = .ok .brStep := by rfl
theorem test_decode_brReconf : decode (.cmd 0b1000_00000000#12) = .ok .brReconf := by rfl
theorem test_decode_tSend : decode (.cmd 0b1001_00000000#12) = .ok .tSend := by rfl
theorem test_decode_tRecv : decode (.cmd 0b1010_00000000#12) = .ok .tRecv := by rfl
theorem test_decode_tExpect : decode (.cmd 0b1011_10101010#12) = .ok (.tExpect 0xAA#8) := by rfl
theorem test_decode_xEcho : decode (.cmd 0b1100_00000000#12) = .ok .xEcho := by rfl
theorem test_decode_fpParse : decode (.cmd 0b1101_00000000#12) = .ok .fpParse := by rfl
theorem test_decode_xCmd : decode (.cmd 0b1110_00000100#12) = .ok (.xCmd 0x04#8) := by rfl
theorem test_decode_reservedF : decode (.cmd 0b1111_00000000#12) = .ok .reservedF := by rfl
theorem test_decode_evRx : decode (.ev 0b0_10101010#9) = .ok (.evRx 0xAA#8) := by rfl
theorem test_decode_evTxc : decode (.ev 0b1_01010101#9) = .ok .evTxc := by rfl

/-! Frames from 42_frame_builder.md R170 to R176 and 43_frame_parser.md R187 to R195, 95_test_vectors.md P2. -/

theorem test_decode_reqGetSettings :
    decode (.req [0x00#8, 0xAA#8, 0x55#8, 0x03#8, 0x00#8, 0x9F#8]) = .ok (.reqGetSettings []) := by decide +kernel
theorem test_decode_reqSetPower :
    decode (.req [0x00#8, 0xAA#8, 0x55#8, 0x05#8, 0x01#8, 0x02#8, 0x14#8]) = .ok (.reqSetPower [0x02#8]) := by decide +kernel
theorem test_decode_reqSetChannel :
    decode (.req [0x00#8, 0xAA#8, 0x55#8, 0x07#8, 0x01#8, 0x07#8, 0xEC#8]) = .ok (.reqSetChannel [0x07#8]) := by decide +kernel
theorem test_decode_reqSetFrequency : decode (.req frame8) = .ok (.reqSetFrequency [0x16#8, 0x2C#8]) := by decide +kernel
theorem test_decode_reqSetMode :
    decode (.req [0x00#8, 0xAA#8, 0x55#8, 0x0B#8, 0x01#8, 0x08#8, 0x04#8]) = .ok (.reqSetMode [0x08#8]) := by decide +kernel
theorem test_decode_reqGetSettingsV2 :
    decode (.req [0x00#8, 0xAA#8, 0x55#8, 0x13#8, 0x00#8, 0x2F#8]) = .ok (.reqGetSettingsV2 []) := by decide +kernel
theorem test_decode_reqGetSettingsV21 :
    decode (.req [0x00#8, 0xAA#8, 0x55#8, 0x23#8, 0x00#8, 0x2A#8]) = .ok (.reqGetSettingsV21 []) := by decide +kernel
theorem test_decode_rspGetSettings :
    decode (.rsp [0xAA#8, 0x55#8, 0x01#8, 0x06#8, 0x07#8, 0x02#8, 0x08#8, 0x16#8, 0x2C#8, 0x99#8]) =
      .ok (.rspGetSettings [0x07#8, 0x02#8, 0x08#8, 0x16#8, 0x2C#8, 0x99#8]) := by rfl
theorem test_decode_rspSetPower : decode (.rsp [0xAA#8, 0x55#8, 0x02#8, 0x02#8, 0x00#8, 0x04#8, 0xA7#8]) =
    .ok (.rspSetPower [0x00#8, 0x04#8] 0xA7#8) := by rfl
theorem test_decode_rspSetChannel :
    decode (.rsp [0xAA#8, 0x55#8, 0x03#8, 0x01#8, 0x07#8, 0x0F#8]) = .ok (.rspSetChannel [0x07#8] 0x0F#8) := by rfl
theorem test_decode_rspSetFrequency :
    decode (.rsp reply7) = .ok (.rspSetFrequency [0x16#8, 0x2C#8] 0xEB#8) := by rfl
theorem test_decode_rspSetMode :
    decode (.rsp [0xAA#8, 0x55#8, 0x05#8, 0x01#8, 0x08#8, 0xD2#8]) = .ok (.rspSetMode [0x08#8] 0xD2#8) := by rfl
theorem test_decode_rspGetSettingsV2 :
    decode (.rsp [0xAA#8, 0x55#8, 0x09#8, 0x00#8]) = .ok (.rspGetSettingsV2 []) := by rfl
theorem test_decode_rspGetSettingsV21 :
    decode (.rsp [0xAA#8, 0x55#8, 0x11#8, 0x01#8, 0x07#8, 0xEA#8]) = .ok (.rspGetSettingsV21 [0x07#8] 0xEA#8) := by rfl
theorem test_decode_rspUnknown : decode (.rsp [0xAA#8, 0x55#8, 0x20#8, 0x02#8, 0x01#8, 0x02#8, 0x2E#8]) =
    .ok (.rspUnknown 0x20#8 [0x01#8, 0x02#8] 0x2E#8) := by rfl

/-! Frames that are none, each refused by name. -/

theorem test_decode_short : decode (.req [0x00#8, 0xAA#8, 0x55#8, 0x03#8]) = .error .short := by rfl
theorem test_decode_bad_pad :
    decode (.req [0x01#8, 0xAA#8, 0x55#8, 0x03#8, 0x00#8, 0x9F#8]) = .error .badPad := by rfl
theorem test_decode_bad_magic : decode (.rsp [0x55#8, 0xAA#8, 0x01#8, 0x00#8]) = .error .badMagic := by rfl
theorem test_decode_bad_length : decode (.rsp [0xAA#8, 0x55#8, 0x01#8, 0x01#8]) = .error .badLength := by rfl
theorem test_decode_bad_crc :
    decode (.req [0x00#8, 0xAA#8, 0x55#8, 0x03#8, 0x00#8, 0x9E#8]) = .error .badCrc := by decide +kernel
/-- 95_test_vectors.md section 4: the frame of `cmd = 0x7F`. -/
theorem test_decode_not_a_command :
    decode (.req [0x00#8, 0xAA#8, 0x55#8, 0xFF#8, 0x00#8, 0xFA#8]) = .error .notACommand := by decide +kernel

/-! ## Steps: 95_test_vectors.md sections 2 to 8 -/

/-- Section 2.1, step 5: the push into a full queue. -/
theorem test_evRx_overflow : seen (exec (.evRx 0x55#8) (holding 4 0 [0x11#8, 0x22#8, 0x33#8, 0x44#8]))
    (fun t => (t.queue.head, t.queue.tail, t.queue.full, t.queue.buf)) =
    some (1, 1, true, [(0, 0x55#8), (1, 0x22#8), (2, 0x33#8), (3, 0x44#8)]) := by decide +kernel
/-- Section 2.2: capacity 1 is full after one push. -/
theorem test_evRx_capacity_one : seen (exec (.evRx 0x01#8) (fresh 1))
    (fun t => (t.queue.head, t.queue.tail, t.queue.full)) = some (0, 0, true) := by decide +kernel
/-- R265. -/
theorem test_evTxc : seen (exec .evTxc { fresh 4 with transport := ⟨false, 0#16, 0⟩ })
    (fun t => t.transport.txdone) = some true := by decide +kernel
/-- R133. -/
theorem test_qPop : seen (exec .qPop (holding 4 1 [0x22#8, 0x33#8, 0x44#8, 0x55#8]))
    (fun t => (t.queue.head, t.queue.tail, t.queue.full, t.results)) =
    some (1, 2, false, [⟨.ok, 0x22#16⟩]) := by decide +kernel
/-- R134. -/
theorem test_qPop_empty : seen (exec .qPop (fresh 4)) (fun t => (t.queue, t.results)) =
    some ((fresh 4).queue, [⟨.none, 0#16⟩]) := by decide +kernel
/-- R135. -/
theorem test_qAvail : seen (exec .qAvail (holding 4 2 [0x33#8, 0x44#8, 0x55#8])) (fun t => t.results) =
    some [⟨.ok, 3#16⟩] := by decide +kernel
/-- R135, the full queue. -/
theorem test_qAvail_full : seen (exec .qAvail (holding 4 1 [0x22#8, 0x33#8, 0x44#8, 0x55#8])) (fun t => t.results) =
    some [⟨.ok, 4#16⟩] := by decide +kernel
/-- R136: the slots are not written. -/
theorem test_qClear : seen (exec .qClear (holding 4 2 [0x33#8])) (fun t => t.queue) =
    some ⟨[(2, 0x33#8)], 0, 0, false⟩ := by decide +kernel
/-- R154. -/
theorem test_crcInit : seen (exec .crcInit { fresh 4 with crcacc := 0x99#8 }) (fun t => t.crcacc) =
    some 0x00#8 := by decide +kernel
/-- R155. -/
theorem test_crcUpd : seen (exec (.crcUpd 0x55#8) { fresh 4 with crcacc := 0x1D#8 })
    (fun t => (t.crcacc, t.results)) = some (0xB4#8, [⟨.ok, 0xB4#16⟩]) := by decide +kernel
/-- R156: the check value of "123456789". -/
theorem test_crc_check_value : crc8Range 0x00#8
    [0x31#8, 0x32#8, 0x33#8, 0x34#8, 0x35#8, 0x36#8, 0x37#8, 0x38#8, 0x39#8] = 0xBC#8 := by decide +kernel
/-- R166. -/
theorem test_fbBuild : seen (exec (.fbBuild 0x04#8) (loaded [0x16#8, 0x2C#8] (fresh 4)))
    (fun t => (t.builder.txbuf.map Prod.snd, t.builder.txlen, t.crcacc)) = some (frame8, 8#9, 0x85#8) := by decide +kernel
/-- Section 4: bit 7 of `cmd` is dropped. -/
theorem test_fbBuild_high_bit : seen (exec (.fbBuild 0x80#8) (fresh 4)) (fun t => t.builder.txbuf.map Prod.snd) =
    some [0x00#8, 0xAA#8, 0x55#8, 0x01#8, 0x00#8, 0x89#8] := by decide +kernel
/-- Section 6.1: degradation flip and clamp flip. -/
theorem test_brStep_two_flips : seen (exec .brStep (linked ⟨4950#16, .down, 50#8, 10#16, 3#16⟩ (fresh 4)))
    (fun t => (t.link, t.outputs)) =
    some (⟨4900#16, .down, 30#8, 0#16, 0#16⟩, [.configureLink 4900#16 true]) := by decide +kernel
/-- Section 6.1: no intermediate truncation, and the saturation. -/
theorem test_brStep_saturates : seen (exec .brStep (linked ⟨4800#16, .up, 40#8, 10#16, 65535#16⟩ (fresh 4)))
    (fun t => (t.link, t.outputs)) = some (⟨4800#16, .up, 255#8, 0#16, 0#16⟩, []) := by decide +kernel
/-- Section 6.1, last line. -/
theorem test_brReconf : seen (exec .brReconf (fresh 4)) (fun t => (t.outputs, t.results)) =
    some ([.configureLink 4800#16 true], [⟨.ok, 4800#16⟩]) := by decide +kernel
/-- Section 7.2, row 1, the first transition. -/
theorem test_tSend : seen (exec .tSend (built (fresh 4))) (fun t => (t.transport.txdone, t.task, t.outputs)) =
    some (false, .sendByte, [.enableTransmit]) := by decide +kernel
/-- Section 7.2, last row. -/
theorem test_tSend_nothing_built : seen (exec .tSend (fresh 4)) (fun t => (t.outputs, t.results)) =
    some ([], [⟨.refused, 0#16⟩]) := by decide +kernel
/-- Section 7.1, row 1. -/
theorem test_tRecv : seen (exec .tRecv (holding 4 3 [0x41#8])) (fun t => (t.queue.tail, t.results, t.outputs)) =
    some (0, [⟨.ok, 0x41#16⟩], []) := by decide +kernel
/-- Section 7.1. -/
theorem test_tExpect_differs : seen (exec (.tExpect 0xAA#8) (holding 4 3 [0xAB#8]))
    (fun t => (t.queue.tail, t.results)) = some (0, [⟨.ok, 0#16⟩]) := by decide +kernel
/-- Section 7.1. -/
theorem test_tExpect_equal : seen (exec (.tExpect 0xAA#8) (holding 4 3 [0xAA#8])) (fun t => t.results) =
    some [⟨.ok, 1#16⟩] := by decide +kernel
/-- Section 7.3, row 2: the pad is not echoed. -/
theorem test_xEcho_without_pad : seen (exec .xEcho (built (holding 8 0 [0xAA#8, 0x55#8])))
    (fun t => (t.seq.eidx, t.task)) = some (2#9, .echo) := by decide +kernel
/-- Section 7.3, row 5. -/
theorem test_xEcho_mismatch : seen (exec .xEcho (built (holding 8 0 [0x55#8, 0xAA#8])))
    (fun t => (t.seq.eidx, t.queue.tail, t.results)) = some (0#9, 1, [⟨.fail, 2#16⟩]) := by decide +kernel
/-- R181: one byte discarded. -/
theorem test_fpParse : seen (exec .fpParse (holding 8 0 [0x00#8, 0xAA#8]))
    (fun t => (t.parser.pstate, t.parser.ndisc, t.task)) = some (.sync, 1#3, .parse) := by decide +kernel
/-- R281. -/
theorem test_xCmd : seen (exec (.xCmd 0x04#8) (loaded [0x16#8, 0x2C#8] (fresh 4)))
    (fun t => (t.seq.xstate, t.seq.outvalid, t.builder.txlen, t.task, t.results)) =
    some (.send, false, 8#9, .clearQueue, []) := by decide +kernel
/-- R112. -/
theorem test_reserved0 : exec .reserved0 (fresh 4) = .next (fresh 4).refuse := by rfl
/-- R112. -/
theorem test_reservedF : exec .reservedF (fresh 4) = .next (fresh 4).refuse := by rfl
/-- R112: a request during an exchange. -/
theorem test_qClear_during_exchange : seen (exec .qClear (awaiting (holding 4 0 [0x11#8])))
    (fun t => (t.queue.head, t.results)) = some (1, [⟨.refused, 0#16⟩]) := by decide +kernel

/-- The bytes of the frame a request row builds. -/
def frameOf (i : Instr) : Option (List Byte) := seen (exec i (fresh 4)) (fun t => t.builder.txbuf.map Prod.snd)

/-- R170. -/
theorem test_reqGetSettings : frameOf (.reqGetSettings []) =
    some [0x00#8, 0xAA#8, 0x55#8, 0x03#8, 0x00#8, 0x9F#8] := by decide +kernel
/-- R171. -/
theorem test_reqSetPower : frameOf (.reqSetPower [0x02#8]) =
    some [0x00#8, 0xAA#8, 0x55#8, 0x05#8, 0x01#8, 0x02#8, 0x14#8] := by decide +kernel
/-- R172. -/
theorem test_reqSetChannel : frameOf (.reqSetChannel [0x07#8]) =
    some [0x00#8, 0xAA#8, 0x55#8, 0x07#8, 0x01#8, 0x07#8, 0xEC#8] := by decide +kernel
/-- R173. -/
theorem test_reqSetFrequency : frameOf (.reqSetFrequency [0x16#8, 0x2C#8]) = some frame8 := by decide +kernel
/-- R174. -/
theorem test_reqSetMode : frameOf (.reqSetMode [0x08#8]) =
    some [0x00#8, 0xAA#8, 0x55#8, 0x0B#8, 0x01#8, 0x08#8, 0x04#8] := by decide +kernel
/-- R175. -/
theorem test_reqGetSettingsV2 : frameOf (.reqGetSettingsV2 []) =
    some [0x00#8, 0xAA#8, 0x55#8, 0x13#8, 0x00#8, 0x2F#8] := by decide +kernel
/-- R176. -/
theorem test_reqGetSettingsV21 : frameOf (.reqGetSettingsV21 []) =
    some [0x00#8, 0xAA#8, 0x55#8, 0x23#8, 0x00#8, 0x2A#8] := by decide +kernel

/-- What a response row leaves: settings, `RECV`, `LEGACYOK`, the answer. -/
def responseLeaves (i : Instr) (s : State) : Option (VtxSettings × Half × Bool × List PortResult) :=
  seen (exec i s) (fun t => (t.settings, t.link.recv, t.parser.legacyok, t.results))

/-- Section 5.2: `LEGACYOK = 1`. -/
theorem test_rspGetSettings :
    responseLeaves (.rspGetSettings [0x07#8, 0x02#8, 0x08#8, 0x16#8, 0x2C#8, 0x54#8]) (fresh 1) =
    some (⟨1#2, 7#8, 2#8, 8#8, 0x162C#16⟩, 1#16, true, [⟨.ok, 0#16⟩]) := by decide +kernel
/-- Section 5.2. -/
theorem test_rspGetSettingsV2 :
    responseLeaves (.rspGetSettingsV2 [0x07#8, 0x02#8, 0x08#8, 0x16#8, 0x2C#8, 0x99#8]) (fresh 1) =
    some (⟨2#2, 7#8, 2#8, 8#8, 0x162C#16⟩, 1#16, false, [⟨.ok, 0#16⟩]) := by decide +kernel
/-- Section 5.2. -/
theorem test_rspGetSettingsV21 :
    responseLeaves (.rspGetSettingsV21 [0x07#8, 0x02#8, 0x08#8, 0x16#8, 0x2C#8, 0x99#8] 0xEA#8) (fresh 1) =
    some (⟨3#2, 7#8, 2#8, 8#8, 0x162C#16⟩, 1#16, false, [⟨.ok, 0#16⟩]) := by decide +kernel
/-- Section 5.2: CrcMismatch. -/
theorem test_rspGetSettingsV21_wrong_crc :
    responseLeaves (.rspGetSettingsV21 [0x07#8, 0x02#8, 0x08#8, 0x16#8, 0x2C#8, 0x99#8] 0x15#8) (fresh 1) =
    some (⟨0#2, 0#8, 0#8, 0#8, 0#16⟩, 0#16, false, [⟨.fail, 3#16⟩]) := by decide +kernel
/-- Section 5.3: `CHAN = 208`, `weird = 260` must not match 4. -/
theorem test_rspSetPower_weird_not_truncated :
    responseLeaves (.rspSetPower [0x04#8, 0x09#8] 0x89#8) { fresh 1 with settings := ⟨0#2, 208#8, 0xEE#8, 0#8, 0#16⟩ } =
    some (⟨0#2, 208#8, 0xEE#8, 0#8, 0#16⟩, 1#16, false, [⟨.ok, 0#16⟩]) := by decide +kernel
/-- Section 5.3: `CHAN = 19`, `weird = 23`. -/
theorem test_rspSetPower_weird :
    responseLeaves (.rspSetPower [0x17#8, 0x02#8] 0xA7#8) { fresh 1 with settings := ⟨0#2, 19#8, 0xEE#8, 0#8, 0#16⟩ } =
    some (⟨0#2, 19#8, 2#8, 0#8, 0#16⟩, 1#16, false, [⟨.ok, 0#16⟩]) := by decide +kernel
/-- R192. -/
theorem test_rspSetChannel : responseLeaves (.rspSetChannel [0x07#8] 0x0F#8) (fresh 1) =
    some (⟨0#2, 7#8, 0#8, 0#8, 0#16⟩, 1#16, false, [⟨.ok, 0#16⟩]) := by decide +kernel
/-- R191. -/
theorem test_rspSetFrequency : responseLeaves (.rspSetFrequency [0x16#8, 0x2C#8] 0xEB#8) (fresh 1) =
    some (⟨0#2, 0#8, 0#8, 0#8, 0x162C#16⟩, 1#16, false, [⟨.ok, 0#16⟩]) := by decide +kernel
/-- R194. -/
theorem test_rspSetMode : responseLeaves (.rspSetMode [0x08#8] 0xD2#8) (fresh 1) =
    some (⟨0#2, 0#8, 0#8, 8#8, 0#16⟩, 1#16, false, [⟨.ok, 0#16⟩]) := by decide +kernel
/-- R195. -/
theorem test_rspUnknown : responseLeaves (.rspUnknown 0x20#8 [0x01#8, 0x02#8] 0x2E#8) (fresh 1) =
    some (⟨0#2, 0#8, 0#8, 0#8, 0#16⟩, 1#16, false, [⟨.fail, 5#16⟩]) := by decide +kernel

/-- A table word is run as the first instruction after reset. -/
theorem test_withFetchWord_runs : step (State.reset.withFetchWord 16 0x300) = exec .qClear State.reset := by rfl

/-! ## Witnesses: for each statement with hypotheses, a state and operands that meet them all -/

theorem witness_EncodeThenDecode : (Instr.rspUnknown 0xFF#8 (List.replicate 255 0xFF#8) 0xFF#8).wf = true := by decide +kernel
theorem witness_DecodedIsWellFormed : decode (.req frame8) = .ok (.reqSetFrequency [0x16#8, 0x2C#8]) := by decide +kernel
theorem witness_FrameDecodeThenEncode : decode (.req frame8) = .ok (.reqSetFrequency [0x16#8, 0x2C#8]) ∧
    decode (.rsp reply7) = .ok (.rspSetFrequency [0x16#8, 0x2C#8] 0xEB#8) := by decide +kernel

theorem witness_StepRunsDecodedInstruction :
    (∃ s : State, s.inputs = .packet (.cmd 0x300#12) :: [] ∧ decode (.cmd 0x300#12) = .ok .qClear) ∧
    (∃ s : State, s.inputs = .packet (.rsp []) :: [] ∧ decode (.rsp []) = .error .short) :=
  ⟨⟨{ fresh 4 with inputs := [.packet (.cmd 0x300#12)] }, rfl, rfl⟩,
   ⟨{ fresh 4 with inputs := [.packet (.rsp [])] }, rfl, rfl⟩⟩

theorem witness_StepOnOtherInputs :
    (∃ s : State, s.inputs = .poll true :: []) ∧ (∃ s : State, s.inputs = [] ∧ s.task = .idle) ∧
    (∃ s : State, s.inputs = .load (List.replicate 255 1#8) :: [] ∧ (List.replicate 255 1#8).length ≤ 255) ∧
    (∃ s : State, s.inputs = .load (List.replicate 256 1#8) :: [] ∧ 255 < (List.replicate 256 1#8).length) :=
  ⟨⟨{ fresh 4 with inputs := [.poll true] }, rfl⟩, ⟨fresh 4, rfl, rfl⟩,
   ⟨{ fresh 4 with inputs := [.load (List.replicate 255 1#8)] }, rfl, by decide +kernel⟩,
   ⟨{ fresh 4 with inputs := [.load (List.replicate 256 1#8)] }, rfl, by decide +kernel⟩⟩

/-- A state in which requests are accepted, after reset and after a finished exchange: for `CrcRequests`. -/
theorem witness_CrcRequests : accepting (fresh 1) = true ∧
    accepting { fresh 1 with seq := ⟨.done, 8#9, .success, true⟩ } = true := by decide +kernel

theorem witness_TransmitCompleteSetsFlag : (fresh 1).transport.txdone = true := by decide +kernel

theorem witness_QueueRefinesList : Queued (fresh 1) [] ∧ Queued (holding 1 0 [0x11#8]) [0x11#8] ∧
    Queued (holding 4 3 [0x11#8, 0x22#8]) [0x11#8, 0x22#8] :=
  ⟨queued_of (by decide +kernel), queued_of (by decide +kernel), queued_of (by decide +kernel)⟩

theorem witness_QueueOverflowKeepsNewest :
    (Queued (holding 4 1 [0x11#8, 0x22#8, 0x33#8, 0x44#8]) [0x11#8, 0x22#8, 0x33#8, 0x44#8] ∧
      (holding 4 1 [0x11#8, 0x22#8, 0x33#8, 0x44#8]).queue.full = true) ∧ Queued (holding 4 3 []) [] :=
  ⟨⟨queued_of (by decide +kernel), by decide +kernel⟩, queued_of (by decide +kernel)⟩

theorem witness_PopRequest : accepting (fresh 4) = true ∧
    ((fresh 4).queue.full = false ∧ (fresh 4).queue.head = (fresh 4).queue.tail) ∧
    accepting (holding 1 0 [0x22#8]) = true ∧
    ((holding 1 0 [0x22#8]).queue.full = true ∧ (holding 1 0 [0x22#8]).queue.buf.read 0 = some 0x22#8) ∧
    ((holding 4 3 [0x22#8]).queue.head ≠ (holding 4 3 [0x22#8]).queue.tail ∧
      (holding 4 3 [0x22#8]).queue.buf.read 3 = some 0x22#8) := by decide +kernel

theorem witness_AvailAndClearRequests : accepting (holding 4 3 [0x22#8]) = true := by decide +kernel

theorem witness_ClearPushRace : accepting (holding 1 0 [0x22#8]) = true ∧ Queued (holding 1 0 [0x22#8]) [0x22#8] :=
  ⟨by decide +kernel, queued_of (by decide +kernel)⟩

theorem witness_FrameBuildRequest : accepting (loaded [0x16#8, 0x2C#8] (fresh 4)) = true ∧
    PayloadLoaded (loaded [0x16#8, 0x2C#8] (fresh 4)) [0x16#8, 0x2C#8] ∧ PayloadLoaded (fresh 4) [] :=
  ⟨by decide +kernel, payloadLoaded_of (by decide +kernel), payloadLoaded_of (by decide +kernel)⟩

theorem witness_BuiltFrameProperties : accepting (fresh 4) = true ∧ PayloadLoaded (fresh 4) [] ∧
    (0x80#8 : Byte).toNat % 128 = (0x00#8 : Byte).toNat % 128 ∧
    (∃ t, exec (.fbBuild 0x80#8) (fresh 4) = .next t) ∧ (∃ t, exec (.fbBuild 0x00#8) (fresh 4) = .next t) ∧
    [0xAA#8, 0x55#8, 0x01#8, 0x00#8, 0x89#8].length = ([] : List Byte).length + 5 ∧
    seen (exec (.fbBuild 0x80#8) (fresh 4)) (fun t => (List.range 5).map fun k => t.builder.txbuf.read (k + 1)) =
      some (([0xAA#8, 0x55#8, 0x01#8, 0x00#8, 0x89#8] : List Byte).map some) :=
  ⟨by decide +kernel, payloadLoaded_of (by decide +kernel), by decide +kernel, ⟨_, rfl⟩, ⟨_, rfl⟩, by decide +kernel, by decide +kernel⟩

theorem witness_RequestRowsBuildTheirFrames : accepting (fresh 4) = true ∧ (List.replicate 255 7#8).length ≤ 255 := by
  decide +kernel

/-- The last warm-up attempt, the first good percentage, the last poor one, and the clamp, for `BaudStepResult`. -/
theorem witness_BaudStepResult :
    (accepting (fresh 4) = true ∧ BaudLegal (fresh 4).link) ∧
    (BaudLegal ⟨4800#16, .up, 0#8, 2#16, 1#16⟩ ∧ (2#16 : Half).toNat < 3) ∧
    (BaudLegal ⟨4800#16, .up, 30#8, 10#16, 7#16⟩ ∧ 10 ≤ (10#16 : Half).toNat ∧ 70 ≤ 7 * 100 / 10) ∧
    (BaudLegal ⟨4950#16, .up, 69#8, 10#16, 6#16⟩ ∧ 10 ≤ (10#16 : Half).toNat ∧ 6 * 100 / 10 < 70) :=
  ⟨⟨by decide +kernel, baudLegal_of (by decide +kernel)⟩, ⟨baudLegal_of (by decide +kernel), by decide +kernel⟩,
   ⟨baudLegal_of (by decide +kernel), by decide +kernel, by decide +kernel⟩, ⟨baudLegal_of (by decide +kernel), by decide +kernel, by decide +kernel⟩⟩

/-- A poor link at the lower bound. -/
def poor : State := linked ⟨4650#16, .down, 0#8, 3#16, 0#16⟩ (fresh 4)

/-- The same in the middle of an exchange whose `BR.STEP` is next, with a response row as the input. -/
def poorInExchange : State := { poor with
  task := .stepBaud, seq := ⟨.send, 0#9, .success, false⟩, transport := ⟨false, 0#16, 0⟩,
  inputs := [given (.rspSetMode [0x08#8] 0xD2#8)] }

theorem witness_BaudMovesOnlyInBaudStep : BaudLegal poor.link ∧ BaudLegal poorInExchange.link ∧
    (∃ t, exec .brStep poor = .next t ∧ t.link.baud ≠ poor.link.baud ∧ ∀ frame, encode .brStep ≠ .rsp frame) ∧
    (∃ t, microStep (some true) poorInExchange = .ok t ∧ t.link.baud ≠ poorInExchange.link.baud) ∧
    seen (step { poor with inputs := [given .brStep] }) (fun t => t.link.baud) = some 4700#16 ∧
    seen (step poorInExchange) (fun t => t.link.baud) = some 4700#16 :=
  ⟨baudLegal_of (by decide +kernel), baudLegal_of (by decide +kernel), ⟨_, rfl, by decide +kernel, fun _ => nofun⟩,
   ⟨_, rfl, by decide +kernel⟩, by decide +kernel, by decide +kernel⟩

theorem witness_ReconfigureRequest : accepting (fresh 4) = true ∧ (awaiting (fresh 4)).seq.xstate.running = true := by
  decide +kernel

theorem witness_SendStarts :
    (accepting (fresh 4) = true ∧ (fresh 4).builder.txlen = 0#9) ∧
    (accepting (built (fresh 4)) = true ∧ (built (fresh 4)).builder.txlen ≠ 0#9 ∧
      (built (fresh 4)).transport.txdone = true) ∧
    (let s := { built (State.resetWith 4 2#16) with transport := ⟨false, 0#16, 0⟩ }
     accepting s = true ∧ s.builder.txlen ≠ 0#9 ∧ s.transport.txdone = false ∧ s.params.txTimeout ≠ 1#16) ∧
    (let s := { built (State.resetWith 4 1#16) with transport := ⟨false, 0#16, 0⟩ }
     accepting s = true ∧ s.builder.txlen ≠ 0#9 ∧ s.transport.txdone = false ∧ s.params.txTimeout = 1#16) := by
  decide +kernel

theorem witness_SendTransmitsFrame : accepting (built (fresh 4)) = true ∧ HoldsFrame (built (fresh 4)) frame8 ∧
    frame8 ≠ [] ∧ (built (fresh 4)).transport.txdone = true :=
  ⟨by decide +kernel, holdsFrame_of (by decide +kernel), by decide +kernel, by decide +kernel⟩

theorem witness_SendWaitTimesOut :
    (let s := { built (State.resetWith 4 1#16) with transport := ⟨false, 0#16, 0⟩ }
     accepting s = true ∧ s.builder.txlen ≠ 0#9 ∧ s.transport.txdone = false ∧ s.params.txTimeout ≠ 0#16) ∧
    (let s := { built (fresh 4) with
       transport := ⟨false, 1#16, 0⟩, task := .sendWait, seq := ⟨.send, 0#9, .success, false⟩ }
     s.task = .sendWait ∧ s.transport.txdone = false ∧ s.transport.tmo ≠ 0#16 ∧ s.seq.xstate.running = true) := by
  decide +kernel

/-- The timeout, the begin of phase B, a byte that is not the last, and the last one inside an exchange. -/
theorem witness_SendByteTimesOut :
    let s (k : Task) (idx : Nat) : State := { built (fresh 4) with
      transport := ⟨true, 1#16, idx⟩, task := k, seq := ⟨.send, 0#9, .success, false⟩ }
    ((s .sendByte 3).task = .sendByte ∧ (s .sendByte 3).transport.tmo ≠ 0#16) ∧
    ((s .sendWait 3).task = .sendWait ∧ (s .sendWait 3).transport.txdone = true ∧
      (s .sendWait 3).builder.txlen ≠ 0#9) ∧
    ((s .sendByte 6).builder.txbuf.read 6 = some 0x2C#8 ∧ 6 + 1 < (s .sendByte 6).builder.txlen.toNat) ∧
    ((s .sendByte 7).builder.txbuf.read 7 = some 0x85#8 ∧ (s .sendByte 7).builder.txlen.toNat ≤ 7 + 1 ∧
      (s .sendByte 7).seq.xstate.running = true) := by decide +kernel

theorem witness_ReceiveRequest : accepting (holding 1 0 [0x41#8]) = true ∧ Queued (holding 1 0 [0x41#8]) (0x41#8 :: []) ∧
    accepting (fresh 4) = true ∧ Queued (fresh 4) [] :=
  ⟨by decide +kernel, queued_of (by decide +kernel), by decide +kernel, queued_of (by decide +kernel)⟩

theorem witness_ExpectRequest : accepting (holding 4 3 [0x41#8, 0x42#8]) = true ∧
    Queued (holding 4 3 [0x41#8, 0x42#8]) [0x41#8, 0x42#8] ∧ Queued (fresh 4) [] :=
  ⟨by decide +kernel, queued_of (by decide +kernel), queued_of (by decide +kernel)⟩

theorem witness_ReceiveWaitsForByte : accepting (fresh 1) = true ∧ Queued (fresh 1) [] ∧ 748 ≤ 748 :=
  ⟨by decide +kernel, queued_of (by decide +kernel), le_rfl⟩

theorem witness_ReceiveWaitTimesOut :
    (let s (k : Task) : State := { awaiting (fresh 4) with task := k, transport := ⟨false, 1#16, 0⟩ }
     ((s .recv).task = .recv ∧ (∃ v, (s (.expect 0xAA#8)).task = .expect v) ∧ (s .echo).task = .echo ∧
       (s .parse).task = .parse) ∧ Queued (s .recv) [] ∧ Queued (s .parse) [] ∧ (s .parse).transport.tmo ≠ 0#16) ∧
    (let s : State := awaiting (holding 4 3 [0xAA#8])
     Queued s (0xAA#8 :: []) ∧ s.task = .parse) ∧
    (let s : State := { built (holding 4 3 [0x85#8, 0x00#8]) with task := .echo, seq := ⟨.awaitEcho, 7#9, .success, false⟩ }
     Queued s (0x85#8 :: [0x00#8]) ∧ s.task = .echo ∧ HoldsFrame s frame8 ∧ 2 ≤ frame8.length ∧
       s.seq.eidx.toNat < frame8.length) :=
  ⟨⟨⟨rfl, ⟨_, rfl⟩, rfl, rfl⟩, queued_of (by decide +kernel), queued_of (by decide +kernel), by decide +kernel⟩,
   ⟨queued_of (by decide +kernel), rfl⟩,
   ⟨queued_of (by decide +kernel), rfl, holdsFrame_of (by decide +kernel), by decide, by decide⟩⟩

theorem witness_EchoStarts : (accepting (fresh 4) = true ∧ (fresh 4).builder.txlen = 0#9) ∧
    (accepting (built (fresh 4)) = true ∧ [0x16#8, 0x2C#8].length ≤ 255 ∧
      HoldsFrame (built (fresh 4)) (builtFrame 0x04#8 [0x16#8, 0x2C#8]) ∧ Queued (built (fresh 4)) []) ∧
    (accepting (built (holding 4 3 [0xAA#8])) = true ∧
      HoldsFrame (built (holding 4 3 [0xAA#8])) (builtFrame 0x04#8 [0x16#8, 0x2C#8]) ∧
      Queued (built (holding 4 3 [0xAA#8])) [0xAA#8]) :=
  ⟨by decide +kernel, ⟨by decide +kernel, by decide +kernel, holdsFrame_of (by decide +kernel), queued_of (by decide +kernel)⟩,
   ⟨by decide +kernel, holdsFrame_of (by decide +kernel), queued_of (by decide +kernel)⟩⟩

theorem witness_EchoPasses : accepting (built (holding 9 3 frame8)) = true ∧ [0x16#8, 0x2C#8].length ≤ 255 ∧
    HoldsFrame (built (holding 9 3 frame8)) (builtFrame 0x04#8 [0x16#8, 0x2C#8]) ∧
    frame8 = builtFrame 0x04#8 [0x16#8, 0x2C#8] ∧ Queued (built (holding 9 3 frame8)) (frame8 ++ []) ∧
    Queued (built (holding 7 3 frame8.tail)) ((builtFrame 0x04#8 [0x16#8, 0x2C#8]).tail ++ []) :=
  ⟨by decide +kernel, by decide +kernel, holdsFrame_of (by decide +kernel), by decide +kernel, queued_of (by decide +kernel), queued_of (by decide +kernel)⟩

/-- Divergence of the echo of `SET_FREQUENCY [16 2C]`: at the first byte, at index 1, the last that needs the pad, and at
the last index with the pad not echoed. -/
theorem diverges :
    EchoDiverges (builtFrame 0x04#8 [0x16#8, 0x2C#8]) [] 0x55#8 0 ∧
    EchoDiverges (builtFrame 0x04#8 [0x16#8, 0x2C#8]) [0x00#8] 0x00#8 1 ∧
    EchoDiverges (builtFrame 0x04#8 [0x16#8, 0x2C#8]) (frame8.tail.take 6) 0x84#8 7 :=
  ⟨⟨by decide +kernel, by decide +kernel, fun _ => by decide +kernel, .inl (by decide +kernel)⟩,
   ⟨by decide +kernel, by decide +kernel, nofun, .inl (by decide +kernel)⟩,
   ⟨by decide +kernel, by decide +kernel, nofun, .inr (by decide +kernel)⟩⟩

theorem witness_EchoDivergenceStops :
    (let s := built (holding 9 3 [0x55#8, 0x01#8])
     accepting s = true ∧ HoldsFrame s (builtFrame 0x04#8 [0x16#8, 0x2C#8]) ∧
       EchoDiverges (builtFrame 0x04#8 [0x16#8, 0x2C#8]) [] 0x55#8 0 ∧ Queued s ([] ++ 0x55#8 :: [0x01#8])) ∧
    (let s := built (holding 9 3 (frame8.tail.take 6 ++ [0x84#8]))
     accepting s = true ∧ HoldsFrame s (builtFrame 0x04#8 [0x16#8, 0x2C#8]) ∧
       EchoDiverges (builtFrame 0x04#8 [0x16#8, 0x2C#8]) (frame8.tail.take 6) 0x84#8 7 ∧
       Queued s (frame8.tail.take 6 ++ 0x84#8 :: [])) :=
  ⟨⟨by decide +kernel, holdsFrame_of (by decide +kernel), diverges.1, queued_of (by decide +kernel)⟩,
   ⟨by decide +kernel, holdsFrame_of (by decide +kernel), diverges.2.2, queued_of (by decide +kernel)⟩⟩

theorem witness_ParseStarts : accepting (holding 4 3 [0xAA#8]) = true ∧ Queued (holding 4 3 [0xAA#8]) [0xAA#8] ∧
    accepting (fresh 4) = true ∧ Queued (fresh 4) [] :=
  ⟨by decide +kernel, queued_of (by decide +kernel), by decide +kernel, queued_of (by decide +kernel)⟩

/-- The magic after three bytes, two of them 0xAA. -/
theorem witness_ParserResynchronises :
    let stream := [0xAA#8, 0x00#8, 0xAA#8] ++ 0xAA#8 :: 0x55#8 :: [0x04#8]
    accepting (holding 9 5 stream) = true ∧ Queued (holding 9 5 stream) stream ∧
    [0xAA#8, 0x00#8, 0xAA#8].length ≤ 3 ∧ ∀ j, j < 3 → ¬ MagicAt stream j :=
  ⟨by decide +kernel, queued_of (by decide +kernel), by decide +kernel, by decide +kernel⟩

/-- The give-up at the fifth byte after `FP.PARSE`, and at the fourth in an exchange's parse with no fifth queued (the
last example of R181 and the one before it). -/
theorem witness_ParserGivesUpSearch :
    (let stream := [0x00#8, 0x00#8, 0x00#8, 0xAA#8, 0x00#8]
     accepting (holding 9 5 stream) = true ∧ Queued (holding 9 5 stream) stream ∧
       (∀ j, j ≤ 3 → ¬ MagicAt stream j) ∧ stream[3]? = some 0xAA#8 ∧ 5 ≤ stream.length) ∧
    ∀ stream ∈ [[0x00#8, 0x00#8, 0x00#8, 0x00#8], [0xAA#8, 0x00#8, 0xAA#8, 0x00#8]],
      ParseJustBegun (awaiting (holding 9 5 stream)) ∧ Queued (awaiting (holding 9 5 stream)) stream ∧
        (∀ j, j ≤ 3 → ¬ MagicAt stream j) ∧ stream[3]? ≠ some 0xAA#8 ∧ 4 ≤ stream.length := by
  refine ⟨⟨by decide +kernel, queued_of (by decide +kernel), by decide, by decide, by decide⟩, ?_⟩
  simp only [List.forall_mem_cons]
  exact ⟨⟨⟨rfl, rfl, rfl, rfl⟩, queued_of (by decide +kernel), by decide, by decide, by decide⟩,
    ⟨⟨rfl, rfl, rfl, rfl⟩, queued_of (by decide +kernel), by decide, by decide, by decide⟩, nofun⟩

theorem witness_ParseDecodesQueuedResponse :
    let stream := [0x01#8, 0x02#8, 0x03#8] ++ responseOfId 0x04#8 [0x16#8, 0x2C#8] ++ [0x99#8]
    accepting (holding 11 5 stream) = true ∧ 0x04#8 ∈ responseIds ∧ [0x16#8, 0x2C#8].length ≤ 255 ∧
    [0x01#8, 0x02#8, 0x03#8].length ≤ 3 ∧ Queued (holding 11 5 stream) stream ∧ ∀ j, j < 3 → ¬ MagicAt stream j :=
  ⟨by decide +kernel, by decide +kernel, by decide +kernel, by decide +kernel, queued_of (by decide +kernel), by decide +kernel⟩

/-- The two ways a block is ready for a frame: accepting requests, and inside an exchange. -/
theorem witness_ready_for_frame : ReadyForFrame (fresh 1) ∧ ReadyForFrame (awaiting (holding 4 3 [])) :=
  ⟨⟨queued_of (by decide +kernel), .inl (by decide +kernel)⟩, ⟨queued_of (by decide +kernel), .inr ⟨rfl, rfl, rfl, rfl⟩⟩⟩

theorem witness_GetSettingsResponses : ReadyForFrame (awaiting (holding 4 3 [])) ∧
    (List.replicate 255 7#8).length ≤ 255 ∧ 6 ≤ (List.replicate 6 7#8).length :=
  ⟨witness_ready_for_frame.2, by decide +kernel, by decide +kernel⟩
theorem witness_SingleFieldResponses : ReadyForFrame (fresh 1) ∧ ([] : List Byte).length ≤ 255 :=
  ⟨witness_ready_for_frame.1, by decide +kernel⟩
/-- Both payload bytes, and the first one alone, which does not name channel 0. -/
theorem witness_SetPowerResponse : ReadyForFrame (fresh 1) ∧ [0x05#8, 0x01#8].length ≤ 255 ∧ [0x05#8].length ≤ 255 ∧
    ¬ NamesChannel 0x05#8 (fresh 1).settings ∧ NamesChannel 0x00#8 (fresh 1).settings :=
  ⟨witness_ready_for_frame.1, by decide +kernel, by decide +kernel, (nomatch ·), .inl rfl⟩
theorem witness_UnknownResponse : ReadyForFrame (fresh 1) ∧ [0x01#8].length ≤ 255 ∧ 0x00#8 ∉ responseIds :=
  ⟨witness_ready_for_frame.1, by decide +kernel, by decide +kernel⟩

/-- Two rows with a wrong CRC byte: a known id and an unknown one. -/
theorem witness_WrongCrcResponses :
    (ReadyForFrame (awaiting (holding 4 3 [])) ∧ [0x16#8, 0x2C#8].length ≤ 255 ∧
      encode (.rspSetFrequency [0x16#8, 0x2C#8] 0xEA#8) =
        .rsp ([0xAA#8, 0x55#8, 0x04#8, BitVec.ofNat 8 2] ++ [0x16#8, 0x2C#8] ++ [0xEA#8]) ∧
      (Instr.rspSetFrequency [0x16#8, 0x2C#8] 0xEA#8).wf = true ∧ 0xEA#8 ≠ responseCrc 0x04#8 [0x16#8, 0x2C#8]) ∧
    (encode (.rspUnknown 0x20#8 [] 0x00#8) = .rsp ([0xAA#8, 0x55#8, 0x20#8, BitVec.ofNat 8 0] ++ [] ++ [0x00#8]) ∧
      (Instr.rspUnknown 0x20#8 [] 0x00#8).wf = true ∧ 0x00#8 ≠ responseCrc 0x20#8 []) :=
  ⟨⟨witness_ready_for_frame.2, by decide +kernel, rfl, by decide +kernel, by decide +kernel⟩, ⟨rfl, by decide +kernel, by decide +kernel⟩⟩

theorem witness_ResponseRowIsItsRun : accepting (fresh 1) = true ∧ Queued (fresh 1) [] ∧ (fresh 1).inputs = [] ∧
    encode (.rspSetMode [0x08#8] 0xD2#8) = .rsp (0xAA#8 :: [0x55#8, 0x05#8, 0x01#8, 0x08#8, 0xD2#8]) ∧
    (Instr.rspSetMode [0x08#8] 0xD2#8).wf = true :=
  ⟨by decide +kernel, queued_of (by decide +kernel), rfl, rfl, by decide +kernel⟩

theorem witness_ExchangeStarts : accepting (loaded [0x16#8, 0x2C#8] (fresh 4)) = true ∧
    PayloadLoaded (loaded [0x16#8, 0x2C#8] (fresh 4)) [0x16#8, 0x2C#8] := ⟨by decide +kernel, payloadLoaded_of (by decide +kernel)⟩

theorem witness_ExchangePreparesLink : ({ fresh 4 with task := .clearQueue } : State).task = .clearQueue := rfl

/-- The end-to-end scenario of R290, with a queue that just holds the frame and the reply. -/
theorem witness_ExchangeSucceeds :
    let s := loaded [0x16#8, 0x2C#8] (holding 10 9 [0x11#8])
    accepting s = true ∧ PayloadLoaded s [0x16#8, 0x2C#8] ∧ QueueLegal s.params.qcap s.queue ∧
    s.transport.txdone = true ∧ 0x04#8 ∈ responseIds ∧ [0x16#8, 0x2C#8].length ≤ 255 ∧
    [0x01#8, 0x02#8, 0x03#8].length ≤ 3 ∧
    (∀ j, j < 3 → ¬ MagicAt ([0x01#8, 0x02#8, 0x03#8] ++ responseOfId 0x04#8 [0x16#8, 0x2C#8]) j) ∧
    [0x16#8, 0x2C#8].length + 6 ≤ s.params.qcap ∧
    ([0x01#8, 0x02#8, 0x03#8] ++ responseOfId 0x04#8 [0x16#8, 0x2C#8]).length ≤ s.params.qcap ∧
    frame8 = builtFrame 0x04#8 [0x16#8, 0x2C#8] ∧ frame8.tail = (builtFrame 0x04#8 [0x16#8, 0x2C#8]).tail :=
  ⟨by decide +kernel, payloadLoaded_of (by decide +kernel), ⟨by decide, by decide, by decide, by decide⟩, by decide +kernel, by decide +kernel,
   by decide +kernel, by decide +kernel, by decide +kernel, by decide +kernel, by decide +kernel⟩

theorem witness_ExchangeStopsOnEchoMismatch :
    let s := loaded [0x16#8, 0x2C#8] (fresh 8)
    (accepting s = true ∧ PayloadLoaded s [0x16#8, 0x2C#8] ∧ QueueLegal s.params.qcap s.queue ∧
      s.transport.txdone = true ∧ [0x16#8, 0x2C#8].length + 6 ≤ s.params.qcap) ∧
    EchoDiverges (builtFrame 0x04#8 [0x16#8, 0x2C#8]) [] 0x55#8 0 ∧
    EchoDiverges (builtFrame 0x04#8 [0x16#8, 0x2C#8]) [0x00#8] 0x00#8 1 ∧
    EchoDiverges (builtFrame 0x04#8 [0x16#8, 0x2C#8]) (frame8.tail.take 6) 0x84#8 7 :=
  ⟨⟨by decide +kernel, payloadLoaded_of (by decide +kernel), ⟨by decide, by decide, by decide, by decide⟩, by decide +kernel,
    by decide +kernel⟩, diverges⟩

/-- A parse that has received a whole set-mode response: its next micro-step commits. -/
def received : State := { awaiting (fresh 4) with
  task := .dispatch, parser := ⟨.crc, 0#3, true, 0x05#8, 1#8, 0xD2#8, 1#8, [(0, 0x08#8)], false⟩ }

/-- By that micro-step, by a step without input, and by the step of a response row. -/
theorem witness_SettingsChangeOnlyAtCommit :
    (∃ t, microStep (some true) received = .ok t ∧ t.settings ≠ received.settings) ∧
    seen (step received) (fun t => t.settings) = some { received.settings with mode := 8#8 } ∧
    seen (step { fresh 1 with inputs := [given (.rspSetMode [0x08#8] 0xD2#8)] }) (fun t => t.settings) =
      some { (fresh 1).settings with mode := 8#8 } ∧ (∀ frame, encode .qPop ≠ .rsp frame) :=
  ⟨⟨_, rfl, by decide +kernel⟩, by decide +kernel, by decide +kernel, fun _ => nofun⟩

theorem witness_RequestsRefusedDuringExchange : opField 0x0FF#12 = 0x0#4 ∧ opField 0xF00#12 = 0xF#4 ∧
    ((awaiting (fresh 4)).seq.xstate ≠ .idle ∧ (awaiting (fresh 4)).seq.xstate ≠ .done) := by decide +kernel

theorem witness_AnswerValueChoices :
    (accepting (fresh 4) = true ∧ (fresh 4).queue.full = false ∧ (fresh 4).queue.head = (fresh 4).queue.tail) ∧
    opField 0x0FF#12 = 0x0#4 ∧ opField 0xF00#12 = 0xF#4 ∧ accepting (awaiting (fresh 4)) = false := by decide +kernel

theorem witness_RequestsRefusedWhileBusy : ({ fresh 4 with task := .recv } : State).task ≠ .idle ∧
    accepting { fresh 4 with task := .recv } = false ∧ 255 < (List.replicate 256 0#8).length := by decide +kernel

theorem witness_ReadPortValues :
    ({ fresh 4 with inputs := [.read [0, 1, 15, 16]] } : State).inputs = .read [0, 1, 15, 16] :: [] := rfl

theorem witness_ResetIsLegal : 1 ≤ 1 ∧ (1#16 : Half) ≠ 0#16 := by decide +kernel

/-- A legal state and one step from it. -/
theorem witness_StepKeepsBlockLegal : ∃ s t : State, BlockLegal s ∧ step s = .next t ∧ t.queue ≠ s.queue :=
  ⟨{ fresh 1 with inputs := [given (.evRx 0xAA#8)] }, _,
    { timeout_pos := by decide +kernel
      queue := ⟨by decide +kernel, by decide +kernel, by decide +kernel, by decide +kernel⟩
      unread := by decide +kernel
      qbuf := ⟨rfl, nofun⟩
      payin := ⟨rfl, nofun⟩
      txbuf := ⟨rfl, nofun⟩
      pb := ⟨rfl, nofun⟩
      loaded := by decide +kernel
      txlen := .inl rfl
      built := by decide +kernel
      baud := baudLegal_of (by decide +kernel)
      ndisc := by decide +kernel
      pstate := fun _ => rfl
      control := rfl
      outvalid := nofun
      progress := trivial }, rfl, by decide +kernel⟩

theorem witness_LegalStepCompletes : ∃ s : State, BlockLegal s :=
  let ⟨s, _, h, _⟩ := witness_StepKeepsBlockLegal
  ⟨s, h⟩

/-- An exchange that awaits its response, after a `BR.STEP`: legal counters, and a response row that starts no parse. -/
def responseDue : State := { awaiting (linked ⟨4800#16, .up, 33#8, 10#16, 3#16⟩ (fresh 4)) with
  inputs := [given (.rspSetMode [0x08#8] 0xD2#8)] }

/-- That row, and `FP.PARSE` in the same state, are let through; the step completes. -/
theorem witness_CountersStayLegal : CountersLegal responseDue ∧
    (∀ x, responseDue.inputs.head? = some x → startsNoParse responseDue x = true) ∧
    seen (step responseDue) (fun t => t.link.recv) = some 4#16 ∧ startsNoParse responseDue (given .fpParse) = true ∧
    startsNoParse (fresh 4) (given .brStep) = true :=
  ⟨{ recv_le := by decide +kernel
     sent_le := by decide +kernel
     pct_le := by decide +kernel
     before_count := nofun
     awaiting := fun _ _ => by decide +kernel
     exchange_only := fun _ => rfl
     task_running := by rintro (h | h | h) <;> cases h },
   by intro x h; cases h; rfl, by decide +kernel, rfl, rfl⟩

end Sys2Proof.Tests
end

