-- ==== Sys2Proof/Proofs/Steps.lean ====
section
/-! What one step does with each kind of input (10_state.md R26, R39; entries 1, 9, 10), once as an equation for each
kind and once as an inversion, and the statements that follow from the equations. -/

namespace Sys2Proof.Machine

/-! ## The step, input by input -/

section
variable {s : State} {rest : List Input}

theorem step_no_input (h : s.inputs = []) : step s = toOutcome (microStep none s) := by
  simp only [step, fetch, h]

theorem step_packet {p : Packet} {i : Instr} (h : s.inputs = .packet p :: rest) (hd : decode p = .ok i) :
    step s = exec i { s with inputs := rest } := by
  simp only [step, fetch, h, hd]

theorem step_bad_packet {p : Packet} {e : DecodeError} (h : s.inputs = .packet p :: rest)
    (hd : decode p = .error e) : step s = .refused (.undecodable e) := by
  simp only [step, fetch, h, hd]

theorem step_load {payload : List Byte} (h : s.inputs = .load payload :: rest) :
    step s = .next (hostLoad payload { s with inputs := rest }) := by
  simp only [step, fetch, h]

theorem step_read {sels : List Nat} (h : s.inputs = .read sels :: rest) :
    step s = .next (hostRead sels { s with inputs := rest }) := by
  simp only [step, fetch, h]

theorem step_poll {ready : Bool} (h : s.inputs = .poll ready :: rest) :
    step s = toOutcome (microStep (some ready) { s with inputs := rest }) := by
  simp only [step, fetch, h]

end

theorem toOutcome_eq_next {r : Except Fault State} {t : State} : toOutcome r = .next t ↔ r = .ok t := by
  cases r <;> simp [toOutcome]

/-- What a property must survive to survive a step: agent C's micro-steps, the decoded instruction, the HOST's load and
its read. -/
theorem step_keeps {P : State → Prop} {s t : State} (h : step s = .next t)
    (quiescent : s.inputs = [] → microStep none s = .ok t → P t)
    (instruction : ∀ p rest i, s.inputs = .packet p :: rest → decode p = .ok i →
      exec i { s with inputs := rest } = .next t → P t)
    (load : ∀ payload rest, P (hostLoad payload { s with inputs := rest }))
    (read : ∀ sels rest, P (hostRead sels { s with inputs := rest }))
    (poll : ∀ ready rest, microStep (some ready) { s with inputs := rest } = .ok t → P t) : P t := by
  match hs : s.inputs with
  | [] => rw [step_no_input hs] at h; exact quiescent hs (toOutcome_eq_next.mp h)
  | .packet p :: rest =>
    match hd : decode p with
    | .ok i => rw [step_packet hs hd] at h; exact instruction p rest i hs hd h
    | .error e => rw [step_bad_packet hs hd] at h; cases h
  | .load payload :: rest => rw [step_load hs] at h; cases h; exact load payload rest
  | .read sels :: rest => rw [step_read hs] at h; cases h; exact read sels rest
  | .poll ready :: rest => rw [step_poll hs] at h; exact poll ready rest (toOutcome_eq_next.mp h)

/-! ## The HOST's load -/

theorem hostLoad_fits {payload : List Byte} (s : State) (h : payload.length ≤ 255) :
    hostLoad payload s = loadPayload payload s := if_pos h

theorem hostLoad_too_long {payload : List Byte} (s : State) (h : 255 < payload.length) :
    hostLoad payload s = s.refuse := if_neg (Nat.not_le.mpr h)

/-- `PAYLEN` counts the bytes of a payload that one byte can count (20_memory.md R60). -/
theorem toNat_ofNat_length {payload : List Byte} (h : payload.length ≤ 255) :
    (BitVec.ofNat 8 payload.length).toNat = payload.length := by
  rw [BitVec.toNat_ofNat]; omega

theorem loadPayload_read (payload : List Byte) (s : State) (a : Nat) :
    (loadPayload payload s).builder.payin.read a =
      if a < payload.length then payload[a]? else s.builder.payin.read a := by
  simp [loadPayload, Memory.read_writeRange]

theorem loadPayload_loaded {payload : List Byte} (s : State) (h : payload.length ≤ 255) :
    PayloadLoaded (loadPayload payload s) payload where
  length_eq := (toNat_ofNat_length h).symm
  bytes i hi := by rw [loadPayload_read, if_pos hi]

/-- Settles O8, from the equation of each input. -/
theorem stepOnOtherInputs : Obligations.StepOnOtherInputs := by
  intro s rest
  refine ⟨fun ready h => step_poll h, step_no_input, fun h hidle => ?_, fun payload h hfits => ?_,
    fun payload h hlong => ?_⟩
  · rw [step_no_input h, microStep_idle none hidle, toOutcome_ok]
  · refine ⟨loadPayload payload { s with inputs := rest }, ?_, rfl, loadPayload_loaded _ hfits, fun a ha => ?_⟩
    · rw [step_load h, hostLoad_fits _ hfits]
    · rw [loadPayload_read, if_neg (Nat.not_lt.mpr ha)]
  · rw [step_load h, hostLoad_too_long _ hlong]; rfl

/-! ## The read port -/

/-- Where each field of `STATUS` stands in its word (10_state.md R39): a fact about ten bits. -/
theorem statusWord_fields (s : State) :
    (statusWord s).extractLsb' 0 3 = s.seq.xstate.code ∧ (statusWord s).getLsbD 3 = s.seq.outvalid ∧
    (statusWord s).extractLsb' 4 3 = s.seq.outcome.code ∧ (statusWord s).getLsbD 7 = s.parser.legacyok ∧
    (statusWord s).getLsbD 8 = s.transport.txdone ∧ (statusWord s).getLsbD 9 = s.queue.full ∧
    (statusWord s).extractLsb' 10 6 = 0#6 := by
  unfold statusWord
  generalize s.seq.xstate.code = x, s.seq.outvalid = v, s.seq.outcome.code = o, s.parser.legacyok = l,
    s.transport.txdone = d, s.queue.full = f
  revert x v o l d f
  decide

/-- Settles O54: the fields of `STATUS` by `statusWord_fields`, the other registers by definition. -/
theorem readPortValues : Obligations.ReadPortValues := by
  intro s
  obtain ⟨hx, hv, ho, hl, hd, hf, h0⟩ := statusWord_fields s
  refine ⟨fun sels rest h => step_read h, hx.trans ?_, hv, ho.trans ?_, hl, hd, hf, h0, rfl, rfl, rfl, rfl, rfl, rfl,
    ?_, rfl, rfl, rfl, rfl, rfl, rfl, rfl, rfl, fun n hn => ?_⟩
  · cases s.seq.xstate <;> rfl
  · cases s.seq.outcome <;> rfl
  · show s.link.dir.code.setWidth 16 = _
    cases s.link.dir <;> rfl
  · obtain ⟨k, rfl⟩ := Nat.exists_eq_add_of_le' hn
    rfl

end Sys2Proof.Machine
end

