-- ==== Sys2Proof/Proofs/Legal.lean ====
section
/-! The invariant `BlockLegal` cut in two: what the stored data must satisfy at any moment (`DataLegal`), and what the
operation in progress adds to it (`OperationLegal`), said once for each operation. The operations' proofs then keep the
data legal and establish the operation part of the task they leave. -/

namespace Sys2Proof.Machine

/-! ## The parts of the invariant -/

/-- The Byte Queue's part: legal indices, every unread slot written, the storage canonical and in range. -/
structure QueueSound (cap : Nat) (q : QueueState) : Prop where
  legal : QueueLegal cap q
  unread : ∀ i, i < q.avail cap → (q.buf.read ((q.tail + i) % cap)).isSome = true
  stored : ArrayLegal q.buf cap

/-- The builder's part: a whole payload in `PAYIN`, and nothing or a whole frame in `TXBUF`. -/
structure BuilderSound (b : BuilderState) : Prop where
  payin : ArrayLegal b.payin 255
  loaded : ∀ i, i < b.paylen.toNat → (b.payin.read i).isSome = true
  txbuf : ArrayLegal b.txbuf 261
  txlen : b.txlen = 0#9 ∨ (6 ≤ b.txlen.toNat ∧ b.txlen.toNat ≤ 261)
  built : ∀ i, i < b.txlen.toNat → (b.txbuf.read i).isSome = true

/-- What holds of the stored data, whatever operation is in progress. -/
structure DataLegal (s : State) : Prop where
  timeout_pos : s.params.txTimeout ≠ 0#16
  queue : QueueSound s.params.qcap s.queue
  builder : BuilderSound s.builder
  pb : ArrayLegal s.parser.pb 255
  ndisc : s.parser.ndisc.toNat ≤ 5
  baud : BaudLegal s.link

/-- What the operation in progress adds. -/
structure OperationLegal (s : State) : Prop where
  pstate : s.task.isParsing = false → s.parser.pstate = .idle
  control : ControlLegal s
  outvalid : s.seq.xstate.running = true → s.seq.outvalid = false
  progress : ProgressLegal s

theorem blockLegal_iff (s : State) : BlockLegal s ↔ DataLegal s ∧ OperationLegal s where
  mp h :=
    ⟨⟨h.timeout_pos, ⟨h.queue, h.unread, h.qbuf⟩, ⟨h.payin, h.loaded, h.txbuf, h.txlen, h.built⟩, h.pb, h.ndisc,
      h.baud⟩, ⟨h.pstate, h.control, h.outvalid, h.progress⟩⟩
  mpr := fun ⟨d, o⟩ =>
    { timeout_pos := d.timeout_pos, queue := d.queue.legal, unread := d.queue.unread, qbuf := d.queue.stored
      payin := d.builder.payin, txbuf := d.builder.txbuf, pb := d.pb, loaded := d.builder.loaded
      txlen := d.builder.txlen, built := d.builder.built, baud := d.baud, ndisc := d.ndisc
      pstate := o.pstate, control := o.control, outvalid := o.outvalid, progress := o.progress }

theorem BlockLegal.data {s : State} (h : BlockLegal s) : DataLegal s := ((blockLegal_iff s).mp h).1

theorem BlockLegal.operation {s : State} (h : BlockLegal s) : OperationLegal s := ((blockLegal_iff s).mp h).2

/-! ## The operation part, for each operation in progress -/

/-- An operation that is a stage of an exchange runs in that stage's state, with no outcome yet; stand-alone it asks
nothing of the sequencer (10_state.md R35, R36). -/
structure StageLegal (x : XState) (q : SequencerState) : Prop where
  state : q.xstate.running = true → q.xstate = x
  outvalid : q.xstate.running = true → q.outvalid = false

theorem StageLegal.of_stopped {x : XState} {q : SequencerState} (h : q.xstate.running = false) : StageLegal x q :=
  ⟨fun hr => absurd hr (by simp [h]), fun hr => absurd hr (by simp [h])⟩

/-- The first `n` payload bytes of the response stand in `PB`. -/
def Received (r : ParserState) (n : Nat) : Prop := ∀ i, i < n → (r.pb.read i).isSome = true

theorem received_zero (r : ParserState) : Received r 0 := fun _ h => absurd h (Nat.not_lt_zero _)

/-- Where a parse stands between two bytes (10_state.md R30, R31). -/
structure ParseLegal (r : ParserState) : Prop where
  begun : r.pstate ≠ .idle
  sync : r.pstate = .sync → r.ndisc.toNat ≤ Config.resyncMax
  pay : r.pstate = .pay → r.pidx.toNat < r.rxlen.toNat ∧ Received r r.pidx.toNat
  crc : r.pstate = .crc → Received r r.rxlen.toNat

section
variable {s : State}

theorem operationLegal_resting (ht : s.task = .idle ∨ s.task = .recv ∨ ∃ v, s.task = .expect v) :
    OperationLegal s ↔ s.parser.pstate = .idle ∧ s.seq.xstate.running = false := by
  have key : s.task.isParsing = false ∧ (ControlLegal s ↔ s.seq.xstate.running = false) ∧ ProgressLegal s := by
    rcases ht with ht | ht | ⟨v, ht⟩ <;> simp [ControlLegal, ProgressLegal, Task.isParsing, ht]
  obtain ⟨hparse, hcontrol, hprogress⟩ := key
  exact ⟨fun h => ⟨h.pstate hparse, hcontrol.mp h.control⟩,
    fun ⟨hp, hx⟩ => ⟨fun _ => hp, hcontrol.mpr hx, fun hr => absurd hr (by simp [hx]), hprogress⟩⟩

theorem operationLegal_preparing (ht : s.task = .clearQueue ∨ s.task = .stepBaud ∨ s.task = .countSent) :
    OperationLegal s ↔
      s.parser.pstate = .idle ∧ s.seq.xstate = .send ∧ s.seq.outvalid = false ∧ s.builder.txlen ≠ 0#9 := by
  have key : s.task.isParsing = false ∧ (ControlLegal s ↔ s.seq.xstate = .send) ∧
      (ProgressLegal s ↔ s.builder.txlen ≠ 0#9) := by
    rcases ht with ht | ht | ht <;> simp [ControlLegal, ProgressLegal, Task.isParsing, ht]
  obtain ⟨hparse, hcontrol, hprogress⟩ := key
  constructor
  · intro h
    have hx := hcontrol.mp h.control
    exact ⟨h.pstate hparse, hx, h.outvalid (by rw [hx]; rfl), hprogress.mp h.progress⟩
  · rintro ⟨hp, hx, ho, hn⟩
    exact ⟨fun _ => hp, hcontrol.mpr hx, fun _ => ho, hprogress.mpr hn⟩

/-- The common form of the operations that may or may not be a stage of an exchange. -/
theorem operationLegal_stage {x : XState} {progress : Prop} (hparse : s.task.isParsing = false)
    (hcontrol : ControlLegal s ↔ (s.seq.xstate.running = true → s.seq.xstate = x))
    (hprogress : ProgressLegal s ↔ progress) :
    OperationLegal s ↔ s.parser.pstate = .idle ∧ StageLegal x s.seq ∧ progress :=
  ⟨fun h => ⟨h.pstate hparse, ⟨hcontrol.mp h.control, h.outvalid⟩, hprogress.mp h.progress⟩,
    fun ⟨hp, hq, hn⟩ => ⟨fun _ => hp, hcontrol.mpr hq.state, hq.outvalid, hprogress.mpr hn⟩⟩

theorem operationLegal_sendWait (ht : s.task = .sendWait) :
    OperationLegal s ↔ s.parser.pstate = .idle ∧ StageLegal .send s.seq ∧ s.builder.txlen ≠ 0#9 :=
  operationLegal_stage (by rw [ht]; rfl) (by simp [ControlLegal, ht]) (by simp [ProgressLegal, ht])

theorem operationLegal_sendByte (ht : s.task = .sendByte) :
    OperationLegal s ↔
      s.parser.pstate = .idle ∧ StageLegal .send s.seq ∧ s.transport.txidx < s.builder.txlen.toNat :=
  operationLegal_stage (by rw [ht]; rfl) (by simp [ControlLegal, ht]) (by simp [ProgressLegal, ht])

theorem operationLegal_echo (ht : s.task = .echo) :
    OperationLegal s ↔
      s.parser.pstate = .idle ∧ StageLegal .awaitEcho s.seq ∧ s.seq.eidx.toNat < s.builder.txlen.toNat :=
  operationLegal_stage (by rw [ht]; rfl) (by simp [ControlLegal, ht]) (by simp [ProgressLegal, ht])

theorem operationLegal_parse (ht : s.task = .parse) :
    OperationLegal s ↔ StageLegal .awaitResponse s.seq ∧ ParseLegal s.parser := by
  have hcontrol : ControlLegal s ↔ (s.seq.xstate.running = true → s.seq.xstate = .awaitResponse) := by
    simp [ControlLegal, ht]
  have hprogress : ProgressLegal s ↔ ParseLegal s.parser := by
    simp only [ProgressLegal, ht]
    exact ⟨fun ⟨hb, hs, hp, hc⟩ => ⟨hb, hs, hp, hc⟩, fun h => ⟨h.begun, h.sync, h.pay, h.crc⟩⟩
  exact ⟨fun h => ⟨⟨hcontrol.mp h.control, h.outvalid⟩, hprogress.mp h.progress⟩,
    fun ⟨hq, hp⟩ => ⟨by simp [ht, Task.isParsing], hcontrol.mpr hq.state, hq.outvalid, hprogress.mpr hp⟩⟩

theorem operationLegal_dispatch (ht : s.task = .dispatch) :
    OperationLegal s ↔ StageLegal .awaitResponse s.seq ∧ s.parser.pstate ≠ .idle ∧
      Received s.parser s.parser.rxlen.toNat := by
  have hcontrol : ControlLegal s ↔ (s.seq.xstate.running = true → s.seq.xstate = .awaitResponse) := by
    simp [ControlLegal, ht]
  have hprogress : ProgressLegal s ↔ s.parser.pstate ≠ .idle ∧ Received s.parser s.parser.rxlen.toNat := by
    simp only [ProgressLegal, ht, Received]
  exact ⟨fun h => ⟨⟨hcontrol.mp h.control, h.outvalid⟩, hprogress.mp h.progress⟩,
    fun ⟨hq, hp⟩ => ⟨by simp [ht, Task.isParsing], hcontrol.mpr hq.state, hq.outvalid, hprogress.mpr hp⟩⟩

/-- The block at rest. -/
theorem blockLegal_of_idle (hd : DataLegal s) (ht : s.task = .idle) (hp : s.parser.pstate = .idle)
    (hx : s.seq.xstate.running = false) : BlockLegal s :=
  (blockLegal_iff s).mpr ⟨hd, (operationLegal_resting (.inl ht)).mpr ⟨hp, hx⟩⟩

end

/-! ## The byte arrays -/

theorem arrayLegal_write {m : Memory} {size i : Nat} (h : ArrayLegal m size) (hi : i < size) (v : Byte) :
    ArrayLegal (m.write i v) size where
  canonical := Memory.wf_write h.canonical i v
  in_range c hc := by
    rcases Memory.mem_write hc with rfl | hc
    · exact hi
    · exact h.in_range c hc

theorem arrayLegal_writeRange {m : Memory} {size i : Nat} {bytes : List Byte} (h : ArrayLegal m size)
    (hi : i + bytes.length ≤ size) : ArrayLegal (m.writeRange i bytes) size where
  canonical := Memory.wf_writeRange h.canonical i bytes
  in_range c hc := by
    rcases Memory.mem_writeRange hc with hc | hc
    · omega
    · exact h.in_range c hc

theorem read_write_isSome {m : Memory} {i j : Nat} (v : Byte) (h : j ≠ i → (m.read j).isSome = true) :
    ((m.write i v).read j).isSome = true := by
  rw [Memory.read_write]
  split
  · rfl
  · next hne => exact h hne

theorem read_writeRange_zero_isSome (m : Memory) {bytes : List Byte} {j : Nat} (h : j < bytes.length) :
    ((m.writeRange 0 bytes).read j).isSome = true := by
  rw [Memory.read_writeRange, if_pos ⟨Nat.zero_le j, by omega⟩]
  simp [h]

/-! ## The Byte Queue -/

/-- Reduction modulo the capacity of a sum of two slot numbers, in linear form. -/
theorem mod_cap {n cap : Nat} (h : n < 2 * cap) : n % cap = if n < cap then n else n - cap := by
  split
  · next hn => exact Nat.mod_eq_of_lt hn
  · next hn => rw [Nat.mod_eq_sub_mod (by omega), Nat.mod_eq_of_lt (by omega)]

section
variable {cap : Nat} {q : QueueState}

theorem QueueState.isEmpty_iff : q.isEmpty = true ↔ q.full = false ∧ q.head = q.tail := by
  simp [QueueState.isEmpty]

/-- The number of unread bytes, without the modulus (10_state.md R24). -/
theorem QueueLegal.avail_eq (h : QueueLegal cap q) :
    q.avail cap = if q.full then cap else if q.tail ≤ q.head then q.head - q.tail else q.head + cap - q.tail := by
  obtain ⟨-, hhead, htail, -⟩ := h
  simp only [QueueState.avail]
  rw [mod_cap (by omega)]
  split_ifs <;> omega

/-- The queue with no unread byte (40_queue.md R136). -/
theorem QueueSound.clear (h : QueueSound cap q) : QueueSound cap { q with head := 0, tail := 0, full := false } where
  legal := ⟨h.legal.cap_pos, h.legal.cap_pos, h.legal.cap_pos, fun _ => rfl⟩
  unread i hi := by simp [QueueState.avail] at hi
  stored := h.stored

/-- A pop moves the tail past the oldest unread byte (40_queue.md R133). -/
theorem QueueSound.pop (h : QueueSound cap q) (hne : q.isEmpty = false) :
    QueueSound cap { q with tail := (q.tail + 1) % cap, full := false } := by
  have hpos := h.legal.cap_pos
  have legal : QueueLegal cap { q with tail := (q.tail + 1) % cap, full := false } :=
    ⟨hpos, h.legal.head_lt, Nat.mod_lt _ hpos, fun hf => by cases hf⟩
  refine ⟨legal, fun i hi => ?_, h.stored⟩
  have hsucc : i + 1 < q.avail cap := by
    have hne' : q.full = true ∨ q.head ≠ q.tail := by
      by_contra hc
      simp [QueueState.isEmpty_iff.mpr (by simpa using hc)] at hne
    obtain ⟨-, hhead, htail, hfull⟩ := h.legal
    rw [legal.avail_eq, mod_cap (by omega)] at hi
    rw [h.legal.avail_eq]
    split_ifs at hi ⊢ <;> simp_all <;> omega
  have hslot : ((q.tail + 1) % cap + i) % cap = (q.tail + (i + 1)) % cap := by
    rw [Nat.mod_add_mod, Nat.add_assoc, Nat.add_comm 1 i]
  simpa only [hslot] using h.unread (i + 1) hsucc

theorem QueueLegal.avail_le (h : QueueLegal cap q) : q.avail cap ≤ cap := by
  obtain ⟨-, hhead, htail, -⟩ := h
  simp only [QueueState.avail]
  split
  · exact le_rfl
  · exact (Nat.mod_lt _ (by omega)).le

/-- The slot after the last unread byte is the one the next push writes (R22, R24). -/
theorem QueueLegal.slot_avail (h : QueueLegal cap q) : (q.tail + q.avail cap) % cap = q.head := by
  have hfull := h.full_eq
  have hhead := h.head_lt
  have htail := h.tail_lt
  rw [mod_cap (by have := h.avail_le; omega), h.avail_eq]
  split_ifs <;> simp_all <;> omega

end

/-- A push writes the slot at the head, and on a full queue drops the oldest byte (40_queue.md R131, R132). -/
theorem QueueSound.push {s : State} (h : QueueSound s.params.qcap s.queue) (b : Byte) :
    QueueSound s.params.qcap (push b s).queue := by
  have hpos := h.legal.cap_pos
  have legal : QueueLegal s.params.qcap (Machine.push b s).queue :=
    { cap_pos := hpos
      head_lt := Nat.mod_lt _ hpos
      tail_lt := by
        show (if s.queue.full then (s.queue.tail + 1) % s.params.qcap else s.queue.tail) < _
        split
        · exact Nat.mod_lt _ hpos
        · exact h.legal.tail_lt
      full_eq := fun hf => eq_of_beq hf }
  refine ⟨legal, fun i hi => ?_, arrayLegal_write h.stored h.legal.head_lt b⟩
  obtain ⟨k, hslot, hk⟩ : ∃ k, ((Machine.push b s).queue.tail + i) % s.params.qcap =
      (s.queue.tail + k) % s.params.qcap ∧ k ≤ s.queue.avail s.params.qcap := by
    cases hf : s.queue.full
    · have htail : (Machine.push b s).queue.tail = s.queue.tail := by simp [Machine.push, hf]
      refine ⟨i, by rw [htail], ?_⟩
      have hmeet := legal.full_eq
      have hhead := h.legal.head_lt
      have htail_lt := h.legal.tail_lt
      have hhead' : (Machine.push b s).queue.head = (s.queue.head + 1) % s.params.qcap := rfl
      rw [legal.avail_eq] at hi
      rw [mod_cap (by omega)] at hhead'
      rw [h.legal.avail_eq, hf]
      split_ifs at hi hhead' ⊢ <;> simp_all <;> omega
    · have htail : (Machine.push b s).queue.tail = (s.queue.tail + 1) % s.params.qcap := by simp [Machine.push, hf]
      have havail : s.queue.avail s.params.qcap = s.params.qcap := by simp [QueueState.avail, hf]
      refine ⟨i + 1, by rw [htail, Nat.mod_add_mod, Nat.add_assoc, Nat.add_comm 1 i], ?_⟩
      have := legal.avail_le
      omega
  rw [hslot]
  refine read_write_isSome b fun hne => h.unread k (lt_of_le_of_ne hk ?_)
  rintro rfl
  exact hne h.legal.slot_avail

end Sys2Proof.Machine
end

