-- ==== Sys2Proof/Proofs/LegalOps.lean ====
section
/-! Each shared operation of the model keeps the stored data legal and leaves the block legal. -/

namespace Sys2Proof.Machine

section
variable {s t : State}

/-! ## The stored data -/

theorem DataLegal.setQueue (h : DataLegal s) {q : QueueState} (hq : QueueSound s.params.qcap q) :
    DataLegal { s with queue := q } := { h with queue := hq }

theorem BlockLegal.setQueue (h : BlockLegal s) {q : QueueState} (hq : QueueSound s.params.qcap q) :
    BlockLegal { s with queue := q } := { h with queue := hq.legal, unread := hq.unread, qbuf := hq.stored }

theorem receiveEvent_legal (h : BlockLegal s) (b : Byte) : BlockLegal (receiveEvent b s) :=
  { h.setQueue (h.data.queue.push b) with }

/-- A load of at most 255 bytes leaves the whole payload loaded (10_state.md R26). -/
theorem loadPayload_sound {payload : List Byte} (h : BuilderSound s.builder) (hlen : payload.length ≤ 255) :
    BuilderSound (loadPayload payload s).builder :=
  { h with
    payin := arrayLegal_writeRange h.payin (by omega)
    loaded := fun i hi => read_writeRange_zero_isSome _ (by
      have hpaylen : (loadPayload payload s).builder.paylen.toNat = payload.length := toNat_ofNat_length hlen
      omega) }

theorem loadPayload_legal {payload : List Byte} (h : BlockLegal s) (hlen : payload.length ≤ 255) :
    BlockLegal (loadPayload payload s) :=
  have hb := loadPayload_sound h.data.builder hlen
  { h with payin := hb.payin, loaded := hb.loaded }

theorem refuse_legal (h : BlockLegal s) : BlockLegal s.refuse := { h with }

theorem hostLoad_legal (h : BlockLegal s) (payload : List Byte) : BlockLegal (hostLoad payload s) := by
  rcases Nat.lt_or_ge 255 payload.length with hlen | hlen
  · rw [hostLoad_too_long _ hlen]; exact refuse_legal h
  · rw [hostLoad_fits _ hlen]; exact loadPayload_legal h hlen

theorem requestFrame_length (cmd : Byte) (payload : List Byte) :
    (requestFrame cmd payload).length = payload.length + 6 := by
  simp [requestFrame, requestBody]

/-- A build leaves a whole frame, and changes nothing else that the invariant reads (42_frame_builder.md R166). -/
theorem buildFrame_legal {cmd : Byte} (h : DataLegal s) (hb : buildFrame cmd s = .ok t) :
    DataLegal t ∧ t.builder.txlen ≠ 0#9 ∧ t.task = s.task ∧ t.parser = s.parser ∧ t.seq = s.seq := by
  obtain ⟨payload, hp, rfl⟩ := buildFrame_cases hb
  have hlen : payload.length ≤ 255 := by
    have := ((Memory.readRange_eq_some _ _ _ _).mp hp).1
    have := s.builder.paylen.isLt
    omega
  have hframe := requestFrame_length cmd payload
  have htxlen : (BitVec.ofNat 9 (payload.length + 6)).toNat = payload.length + 6 := by
    rw [BitVec.toNat_ofNat]; omega
  have sound : BuilderSound { s.builder with
      cmdin := cmd
      txbuf := s.builder.txbuf.writeRange 0 (requestFrame cmd payload)
      txlen := BitVec.ofNat 9 (payload.length + 6) } :=
    { h.builder with
      txbuf := arrayLegal_writeRange h.builder.txbuf (by omega)
      txlen := .inr (by simp only [htxlen]; omega)
      built := fun i hi => read_writeRange_zero_isSome _ (by simp only [htxlen] at hi; omega) }
  refine ⟨{ h with builder := sound }, fun h0 => ?_, rfl, rfl, rfl⟩
  have hzero : BitVec.ofNat 9 (payload.length + 6) = 0#9 := h0
  rw [hzero] at htxlen
  cases htxlen

theorem leavesRange_up (baud : Half) : leavesRange .up baud = true ↔ 4950 < baud.toNat + 50 :=
  decide_eq_true_iff

theorem leavesRange_down (baud : Half) : leavesRange .down baud = true ↔ baud.toNat < 4700 :=
  decide_eq_true_iff

theorem baudLegal_iff (l : LinkState) :
    BaudLegal l ↔ 4650 ≤ l.baud.toNat ∧ l.baud.toNat ≤ 4950 ∧ (l.baud.toNat - 4650) % 50 = 0 := Iff.rfl

/-- At a legal baud rate at most one direction leaves the range, so the clamp of R235 turns to one that stays. -/
theorem nextDir_stays {l : LinkState} (h : BaudLegal l) (pct : Nat) : leavesRange (nextDir pct l) l.baud = false := by
  obtain ⟨hmin, hmax, -⟩ := (baudLegal_iff l).mp h
  have turned : ∀ d, leavesRange d l.baud = true → leavesRange d.flip l.baud = false
    | .up, hl => by
      rw [leavesRange_up] at hl
      rw [Dir.flip, Bool.eq_false_iff, Ne, leavesRange_down]; omega
    | .down, hl => by
      rw [leavesRange_down] at hl
      rw [Dir.flip, Bool.eq_false_iff, Ne, leavesRange_up]; omega
  simp only [nextDir]
  generalize (if pct < l.lastpct.toNat then l.dir.flip else l.dir) = d
  split
  · next hleaves => exact turned _ hleaves
  · next hstays => simpa using hstays

/-- One step along the 50-grid that does not leave the range (44_baud.md R236, R240). -/
theorem movedBaud_legal {l : LinkState} {d : Dir} (h : BaudLegal l) (hd : leavesRange d l.baud = false) :
    BaudLegal { l with baud := movedBaud d l.baud } := by
  obtain ⟨hmin, hmax, hgrid⟩ := (baudLegal_iff l).mp h
  rw [Bool.eq_false_iff, Ne] at hd
  rw [baudLegal_iff]
  cases d with
  | up =>
    rw [leavesRange_up] at hd
    have hmoved : (movedBaud .up l.baud).toNat = l.baud.toNat + 50 := by
      simp only [movedBaud, Config.baudStep, BitVec.toNat_add, BitVec.toNat_ofNat]; omega
    simp only [hmoved]; omega
  | down =>
    rw [leavesRange_down] at hd
    have hmoved : (movedBaud .down l.baud).toNat = l.baud.toNat - 50 := by
      simp only [movedBaud, Config.baudStep, BitVec.toNat_sub, BitVec.toNat_ofNat]; omega
    simp only [hmoved]; omega

theorem baudStep_data (h : DataLegal s) : DataLegal (baudStep s) := by
  rcases baudStep_cases s with ⟨-, e⟩ | ⟨-, -, e⟩ | ⟨-, -, e⟩
  · rw [e]; exact { h with }
  · rw [e]; exact { h with }
  · rw [e]; exact { h with baud := movedBaud_legal h.baud (nextDir_stays h.baud _) }

/-- An invocation of the controller writes the link and the peripheral port only (R230). -/
theorem baudStep_frame (s : State) :
    baudStep s = { s with link := (baudStep s).link, outputs := (baudStep s).outputs } := by
  rcases baudStep_cases s with ⟨-, e⟩ | ⟨-, -, e⟩ | ⟨-, -, e⟩
  · rw [e]
  · rw [e]
  · rw [e]; rfl

@[simp] theorem baudStep_builder (s : State) : (baudStep s).builder = s.builder := by rw [baudStep_frame]
@[simp] theorem baudStep_parser (s : State) : (baudStep s).parser = s.parser := by rw [baudStep_frame]
@[simp] theorem baudStep_seq (s : State) : (baudStep s).seq = s.seq := by rw [baudStep_frame]

/-! ## The ends of an operation -/

@[simp] theorem raise_parser_pb (o : ExchangeOutcome) (s : State) : (raise o s).parser.pb = s.parser.pb := by
  simp only [raise_parser]; split <;> rfl

@[simp] theorem raise_parser_ndisc (o : ExchangeOutcome) (s : State) :
    (raise o s).parser.ndisc = s.parser.ndisc := by
  simp only [raise_parser]; split <;> rfl

theorem raise_stopped (o : ExchangeOutcome) (s : State) : (raise o s).seq.xstate.running = false := by
  simp only [raise_seq]
  split
  · rfl
  · next h => simpa using h

theorem raise_legal (o : ExchangeOutcome) (h : DataLegal s) (hp : s.task.isParsing = false → s.parser.pstate = .idle) :
    BlockLegal (raise o s) := by
  have data : DataLegal (raise o s) :=
    { h with pb := by rw [raise_parser_pb]; exact h.pb
             ndisc := by rw [raise_parser_ndisc]; exact h.ndisc }
  refine blockLegal_of_idle data rfl ?_ (raise_stopped o s)
  simp only [raise_parser]
  split
  · rfl
  · next hparse => exact hp (by simpa using hparse)

theorem finish_legal (v : Half) (h : DataLegal s) (hp : s.parser.pstate = .idle) (hx : s.seq.xstate.running = false) :
    BlockLegal (finish v s) :=
  blockLegal_of_idle { h with } rfl hp hx

theorem commit_stopped (v : VtxSettings) (s : State) : (commit v s).seq.xstate.running = false := by
  simp only [commit_seq]
  split
  · rfl
  · next h => simpa using h

theorem commit_legal (v : VtxSettings) (h : DataLegal s) : BlockLegal (commit v s) :=
  blockLegal_of_idle { h with } rfl rfl (commit_stopped v s)

/-! ## Waits -/

theorem failedPoll_legal (h : BlockLegal s) : BlockLegal (failedPoll s) := by
  rcases failedPoll_cases s with ⟨-, e⟩ | ⟨-, e⟩
  · rw [e]; exact raise_legal _ { h.data with } h.pstate
  · rw [e]; exact { h with }

theorem failedReadyPoll_legal (h : BlockLegal s) : BlockLegal (failedReadyPoll s) := by
  rcases failedReadyPoll_cases s with ⟨-, e⟩ | ⟨-, e⟩
  · rw [e]; exact raise_legal _ { h.data with } h.pstate
  · rw [e]; exact { h with }

/-- A poll of a receive leaves the block legal where the use of the byte does. -/
theorem pollQueue_legal {onByte : Byte → State → Except Fault State} (h : BlockLegal s)
    (use : ∀ v u, BlockLegal u → u.task = s.task → onByte v u = .ok t → BlockLegal t)
    (hp : pollQueue s onByte = .ok t) : BlockLegal t := by
  rcases pollQueue_cases hp with ⟨-, rfl⟩ | ⟨v, hne, -, hv⟩
  · exact failedPoll_legal h
  · exact use v _ (h.setQueue (h.data.queue.pop hne)) rfl hv

/-! ## The transport driver -/

theorem startSend_legal (h : DataLegal s) (hp : s.parser.pstate = .idle) (hq : StageLegal .send s.seq)
    (hn : s.builder.txlen ≠ 0#9) : BlockLegal (startSend s) :=
  (blockLegal_iff _).mpr ⟨{ h with }, (operationLegal_sendWait rfl).mpr ⟨hp, hq, hn⟩⟩

theorem startEcho_legal (h : DataLegal s) (hp : s.parser.pstate = .idle) (hq : StageLegal .awaitEcho s.seq)
    (hn : 0 < s.builder.txlen.toNat) : BlockLegal (startEcho s) :=
  (blockLegal_iff _).mpr ⟨{ h with }, (operationLegal_echo rfl).mpr ⟨hp, ⟨hq.state, hq.outvalid⟩, hn⟩⟩

theorem endSend_legal (h : DataLegal s) (hp : s.parser.pstate = .idle) (hq : StageLegal .send s.seq)
    (hn : 0 < s.builder.txlen.toNat) : BlockLegal (endSend s) := by
  rcases endSend_cases s with ⟨hr, e⟩ | ⟨hr, e⟩
  · rw [e]; exact startEcho_legal { h with } hp ⟨fun _ => rfl, fun _ => hq.outvalid hr⟩ hn
  · rw [e]; exact finish_legal _ h hp hr

theorem nextSendByte_legal (h : DataLegal s) (hp : s.parser.pstate = .idle) (hq : StageLegal .send s.seq)
    (hn : 0 < s.builder.txlen.toNat) : BlockLegal (nextSendByte s) := by
  rcases nextSendByte_cases s with ⟨hi, e⟩ | ⟨-, e⟩
  · rw [e]; exact (blockLegal_iff _).mpr ⟨{ h with }, (operationLegal_sendByte rfl).mpr ⟨hp, hq, hi⟩⟩
  · rw [e]; exact endSend_legal h hp hq hn

/-- `TXLEN` is not 0 as a word just where it is not 0 as a number. -/
theorem txlen_pos {n : BitVec 9} (h : n ≠ 0#9) : 0 < n.toNat := by
  rw [Nat.pos_iff_ne_zero]; exact fun h0 => h (BitVec.eq_of_toNat_eq h0)

theorem sendWaitPoll_legal (h : BlockLegal s) (ht : s.task = .sendWait) : BlockLegal (sendWaitPoll s) := by
  obtain ⟨hp, hq, hn⟩ := (operationLegal_sendWait ht).mp h.operation
  rcases sendWaitPoll_cases s with ⟨-, e⟩ | ⟨-, e⟩
  · rw [e]; exact nextSendByte_legal { h.data with } hp hq (txlen_pos hn)
  · rw [e]; exact failedPoll_legal h

theorem sendBytePoll_legal {ready : Option Bool} (h : BlockLegal s) (ht : s.task = .sendByte)
    (hs : sendBytePoll ready s = .ok t) : BlockLegal t := by
  obtain ⟨u, hu, hcases⟩ := sendBytePoll_cases hs
  obtain ⟨hlegal, htask⟩ : BlockLegal u ∧ u.task = .sendByte := by
    rcases hu with rfl | rfl
    · exact ⟨h, ht⟩
    · exact ⟨{ h with }, ht⟩
  obtain ⟨hp, hq, hi⟩ := (operationLegal_sendByte htask).mp hlegal.operation
  rcases hcases with ⟨b, -, rfl⟩ | rfl
  · exact nextSendByte_legal { hlegal.data with } hp hq (Nat.zero_lt_of_lt hi)
  · exact failedReadyPoll_legal hlegal

theorem recvByte_legal {v : Byte} (h : BlockLegal s) (ht : s.task = .recv) (hs : recvByte v s = .ok t) :
    BlockLegal t := by
  obtain ⟨hp, hx⟩ := (operationLegal_resting (.inr (.inl ht))).mp h.operation
  cases hs
  exact finish_legal _ h.data hp hx

theorem expectByte_legal {v b : Byte} (h : BlockLegal s) (ht : s.task = .expect v) (hs : expectByte v b s = .ok t) :
    BlockLegal t := by
  obtain ⟨hp, hx⟩ := (operationLegal_resting (.inr (.inr ⟨v, ht⟩))).mp h.operation
  cases hs
  exact finish_legal _ h.data hp hx

/-! ## The echo verifier -/

/-- The start of a parse sets the parser's whole position, so only the sequencer must be in the right state. -/
theorem startParse_legal (h : DataLegal s) (hq : StageLegal .awaitResponse s.seq) : BlockLegal (startParse s) :=
  have hparse : ParseLegal (startParse s).parser :=
    ⟨nofun, fun _ => Nat.zero_le _, nofun, nofun⟩
  (blockLegal_iff _).mpr ⟨{ h with ndisc := Nat.zero_le _ }, (operationLegal_parse rfl).mpr ⟨hq, hparse⟩⟩

theorem endEcho_legal (h : DataLegal s) (hp : s.parser.pstate = .idle) (hq : StageLegal .awaitEcho s.seq) :
    BlockLegal (endEcho s) := by
  rcases endEcho_cases s with ⟨hr, e⟩ | ⟨hr, e⟩
  · rw [e]; exact startParse_legal { h with } ⟨fun _ => rfl, fun _ => hq.outvalid hr⟩
  · rw [e]; exact finish_legal _ h hp hr

theorem echoMatched_legal (i : BitVec 9) (h : DataLegal s) (ht : s.task = .echo) (hp : s.parser.pstate = .idle)
    (hq : StageLegal .awaitEcho s.seq) : BlockLegal (echoMatched i s) := by
  have hq' : StageLegal .awaitEcho { s.seq with eidx := i } := ⟨hq.state, hq.outvalid⟩
  rcases echoMatched_cases i s with ⟨hi, e⟩ | ⟨-, e⟩
  · rw [e]
    refine (blockLegal_iff _).mpr ⟨{ h with }, (operationLegal_echo ?_).mpr ⟨hp, hq', hi⟩⟩
    exact ht
  · rw [e]; exact endEcho_legal { h with } hp hq'

theorem echoByte_legal {b : Byte} (h : BlockLegal s) (ht : s.task = .echo) (hs : echoByte b s = .ok t) :
    BlockLegal t := by
  obtain ⟨hp, hq, -⟩ := (operationLegal_echo ht).mp h.operation
  have matched : ∀ i, BlockLegal (echoMatched i s) := fun i => echoMatched_legal i h.data ht hp hq
  have diverged : BlockLegal (raise .echoMismatch s) := raise_legal _ h.data h.pstate
  rcases echoByte_cases hs with ⟨-, -, rfl⟩ | ⟨-, -, -, rfl⟩ | ⟨-, -, -, rfl⟩ | ⟨-, -, rfl⟩ | ⟨-, -, rfl⟩
  · exact matched _
  · exact matched _
  · exact diverged
  · exact matched _
  · exact diverged

/-! ## The parser -/

theorem raise_parsing_legal (o : ExchangeOutcome) (h : DataLegal s) (ht : s.task = .parse ∨ s.task = .dispatch) :
    BlockLegal (raise o s) :=
  raise_legal o h fun hn => by rcases ht with ht | ht <;> simp [ht, Task.isParsing] at hn

theorem parsing_legal (h : DataLegal s) (ht : s.task = .parse) (hq : StageLegal .awaitResponse s.seq)
    (hp : ParseLegal s.parser) : BlockLegal s :=
  (blockLegal_iff s).mpr ⟨h, (operationLegal_parse ht).mpr ⟨hq, hp⟩⟩

theorem dispatching_legal (h : DataLegal s) (hq : StageLegal .awaitResponse s.seq) (hb : s.parser.pstate ≠ .idle)
    (hr : Received s.parser s.parser.rxlen.toNat) : BlockLegal { s with task := .dispatch } :=
  (blockLegal_iff _).mpr ⟨{ h with }, (operationLegal_dispatch rfl).mpr ⟨hq, hb, hr⟩⟩

theorem syncByte_legal (b : Byte) (h : DataLegal s) (ht : s.task = .parse) (hq : StageLegal .awaitResponse s.seq)
    (hsync : s.parser.pstate = .sync) (hn : s.parser.ndisc.toNat ≤ Config.resyncMax) : BlockLegal (syncByte b s) := by
  rcases syncByte_cases b s with ⟨-, -, e⟩ | ⟨-, n, hdef, hcases⟩
  · rw [e]; exact parsing_legal { h with } ht hq ⟨nofun, nofun, nofun, nofun⟩
  · have hn5 : n ≤ 5 := by
      simp only [Config.resyncMax] at hn
      split_ifs at hdef <;> omega
    have hndisc : (BitVec.ofNat 3 n).toNat = n := by rw [BitVec.toNat_ofNat]; omega
    have data : DataLegal { s with parser := { s.parser with
        ndisc := BitVec.ofNat 3 n, haveaa := b == Config.magic0 } } :=
      { h with ndisc := hndisc.trans_le hn5 }
    rcases hcases with ⟨hle, e⟩ | ⟨-, e⟩
    · rw [e]
      refine parsing_legal { data with } ht hq ⟨?_, fun _ => hndisc.trans_le hle, ?_, ?_⟩ <;>
        simp [hsync]
    · rw [e]; exact raise_parsing_legal _ data (.inl ht)

theorem endPayload_legal (h : DataLegal s) (ht : s.task = .parse) (hq : StageLegal .awaitResponse s.seq)
    (hpay : s.parser.pstate = .pay) (hr : Received s.parser s.parser.rxlen.toNat) : BlockLegal (endPayload s) := by
  rcases endPayload_cases s with ⟨-, e⟩ | ⟨-, e⟩
  · rw [e]; exact dispatching_legal h hq (by simp [hpay]) hr
  · rw [e]; exact parsing_legal { h with } ht hq ⟨nofun, nofun, nofun, fun _ => hr⟩

theorem nextPayload_legal (h : DataLegal s) (ht : s.task = .parse) (hq : StageLegal .awaitResponse s.seq)
    (hpay : s.parser.pstate = .pay) (hr : Received s.parser s.parser.pidx.toNat) : BlockLegal (nextPayload s) := by
  rcases nextPayload_cases s with ⟨hi, e⟩ | ⟨hi, e⟩
  · rw [e]
    exact parsing_legal { h with } ht hq ⟨by simp [hpay], by simp [hpay], fun _ => ⟨hi, hr⟩, by simp [hpay]⟩
  · rw [e]; exact endPayload_legal h ht hq hpay fun i hlt => hr i (by omega)

theorem payStageByte_legal (b : Byte) (h : DataLegal s) (ht : s.task = .parse)
    (hq : StageLegal .awaitResponse s.seq) (hpay : s.parser.pstate = .pay)
    (hi : s.parser.pidx.toNat < s.parser.rxlen.toNat) (hr : Received s.parser s.parser.pidx.toNat) :
    BlockLegal (payStageByte b s) := by
  have hlen := s.parser.rxlen.isLt
  have hpidx : (s.parser.pidx + 1#8).toNat = s.parser.pidx.toNat + 1 := by
    rw [BitVec.toNat_add, BitVec.toNat_ofNat]; omega
  refine nextPayload_legal { h with pb := arrayLegal_write h.pb (by omega) b } ht hq hpay fun i hlt => ?_
  refine read_write_isSome b fun hne => hr i ?_
  rw [hpidx] at hlt
  omega

theorem crcStageByte_legal (b : Byte) (h : DataLegal s) (ht : s.task = .parse)
    (hq : StageLegal .awaitResponse s.seq) (hcrc : s.parser.pstate = .crc)
    (hr : Received s.parser s.parser.rxlen.toNat) : BlockLegal (crcStageByte b s) := by
  rcases crcStageByte_cases b s with ⟨-, e⟩ | ⟨-, e⟩
  · rw [e]; exact dispatching_legal h hq (by simp [hcrc]) hr
  · rw [e]; exact raise_parsing_legal _ h (.inl ht)

theorem parseByte_legal {b : Byte} (h : BlockLegal s) (ht : s.task = .parse) (hs : parseByte b s = .ok t) :
    BlockLegal t := by
  obtain ⟨hq, hp⟩ := (operationLegal_parse ht).mp h.operation
  have hd := h.data
  cases hs
  match hst : s.parser.pstate with
  | .idle => exact absurd hst hp.begun
  | .sync => exact syncByte_legal b hd ht hq hst (hp.sync hst)
  | .cmd => exact parsing_legal { hd with } ht hq ⟨nofun, nofun, nofun, nofun⟩
  | .len => exact nextPayload_legal { hd with } ht hq rfl (received_zero _)
  | .pay => exact payStageByte_legal b hd ht hq hst (hp.pay hst).1 (hp.pay hst).2
  | .crc => exact crcStageByte_legal b hd ht hq hst (hp.crc hst)

theorem dispatch_legal (h : BlockLegal s) (ht : s.task = .dispatch) (hs : dispatch s = .ok t) : BlockLegal t := by
  obtain ⟨-, -, hr⟩ := (operationLegal_dispatch ht).mp h.operation
  rcases dispatch_cases hr hs with ⟨v, n, l, rfl⟩ | rfl
  · exact commit_legal v { h.data with }
  · exact raise_parsing_legal _ { h.data with } (.inr ht)

end

end Sys2Proof.Machine
end

