-- ==== Sys2Proof/Proofs/LegalSteps.lean ====
section
/-! Every step keeps the block legal: agent C's micro-steps, operation by operation, then the instructions, then the
step. -/

namespace Sys2Proof.Machine

section
variable {s t : State}

/-! ## The preparation of an exchange -/

theorem preparing_legal (h : DataLegal s)
    (ht : s.task = .clearQueue ∨ s.task = .stepBaud ∨ s.task = .countSent) (hp : s.parser.pstate = .idle)
    (hx : s.seq.xstate = .send) (ho : s.seq.outvalid = false) (hn : s.builder.txlen ≠ 0#9) : BlockLegal s :=
  (blockLegal_iff s).mpr ⟨h, (operationLegal_preparing ht).mpr ⟨hp, hx, ho, hn⟩⟩

theorem clearQueue_legal (h : BlockLegal s) (ht : s.task = .clearQueue) :
    BlockLegal { clearQueue s with task := .stepBaud } := by
  obtain ⟨hp, hx, ho, hn⟩ := (operationLegal_preparing (.inl ht)).mp h.operation
  exact preparing_legal { h.data with queue := h.data.queue.clear } (.inr (.inl rfl)) hp hx ho hn

theorem stepBaud_legal (h : BlockLegal s) (ht : s.task = .stepBaud) :
    BlockLegal { baudStep s with task := .countSent } := by
  obtain ⟨hp, hx, ho, hn⟩ := (operationLegal_preparing (.inr (.inl ht))).mp h.operation
  refine preparing_legal { baudStep_data h.data with } (.inr (.inr rfl)) ?_ ?_ ?_ ?_ <;> simpa

theorem countSent_legal (h : BlockLegal s) (ht : s.task = .countSent) : BlockLegal (countSent s) := by
  obtain ⟨hp, hx, ho, hn⟩ := (operationLegal_preparing (.inr (.inr ht))).mp h.operation
  exact startSend_legal { h.data with } hp ⟨fun _ => hx, fun _ => ho⟩ hn

/-! ## The micro-steps -/

theorem microStep_legal {ready : Option Bool} (h : BlockLegal s) (hm : microStep ready s = .ok t) : BlockLegal t := by
  match ht : s.task with
  | .idle => rw [microStep_idle ready ht] at hm; cases hm; exact h
  | .clearQueue => rw [microStep_clearQueue ready ht] at hm; cases hm; exact clearQueue_legal h ht
  | .stepBaud => rw [microStep_stepBaud ready ht] at hm; cases hm; exact stepBaud_legal h ht
  | .countSent => rw [microStep_countSent ready ht] at hm; cases hm; exact countSent_legal h ht
  | .sendWait => rw [microStep_sendWait ready ht] at hm; cases hm; exact sendWaitPoll_legal h ht
  | .sendByte => rw [microStep_sendByte ready ht] at hm; exact sendBytePoll_legal h ht hm
  | .recv =>
    rw [microStep_recv ready ht] at hm
    exact pollQueue_legal h (fun _ _ hu hut hb => recvByte_legal hu (hut.trans ht) hb) hm
  | .expect v =>
    rw [microStep_expect ready ht] at hm
    exact pollQueue_legal h (fun _ _ hu hut hb => expectByte_legal hu (hut.trans ht) hb) hm
  | .echo =>
    rw [microStep_echo ready ht] at hm
    exact pollQueue_legal h (fun _ _ hu hut hb => echoByte_legal hu (hut.trans ht) hb) hm
  | .parse =>
    rw [microStep_parse ready ht] at hm
    exact pollQueue_legal h (fun _ _ hu hut hb => parseByte_legal hu (hut.trans ht) hb) hm
  | .dispatch => rw [microStep_dispatch ready ht] at hm; exact dispatch_legal h ht hm

/-! ## The requests -/

/-- A request keeps what its refusal keeps and what its operation brings about where it is accepted. -/
theorem request_keeps {P : State → Prop} {body : State → Except Fault State} (h : request s body = .next t)
    (refused : P s.refuse) (accepted : accepting s = true → body s = .ok t → P t) : P t := by
  rcases request_cases h with ⟨ha, hb⟩ | ⟨-, rfl⟩
  · exact accepted ha hb
  · exact refused

/-- What a legal block that accepts requests gives an operation to begin with. -/
theorem BlockLegal.accepted (h : BlockLegal s) (ha : accepting s = true) :
    DataLegal s ∧ s.task = .idle ∧ s.parser.pstate = .idle ∧ s.seq.xstate.running = false :=
  have ⟨hx, ht⟩ := (accepting_iff s).mp ha
  ⟨h.data, ht, h.pstate (by rw [ht]; rfl), hx⟩

theorem execQPop_legal (h : BlockLegal s) (hs : execQPop s = .next t) : BlockLegal t := by
  refine request_keeps hs (refuse_legal h) fun ha hb => ?_
  obtain ⟨hd, -, hp, hx⟩ := h.accepted ha
  split at hb
  · cases hb
  · next hpop =>
    rcases pop_cases hpop with ⟨-, hr, -⟩ | ⟨w, hne, -, hr, rfl⟩
    · cases hr
    · cases hb; exact finish_legal _ (hd.setQueue (hd.queue.pop hne)) hp hx
  · next hpop =>
    rcases pop_cases hpop with ⟨-, -, rfl⟩ | ⟨w, -, -, hr, -⟩
    · cases hb; exact { h with }
    · cases hr

/-- A build that answers leaves the block at rest with the frame (R166). -/
theorem finishBuild_legal {cmd : Byte} {u : State} (hd : DataLegal u) (hp : u.parser.pstate = .idle)
    (hx : u.seq.xstate.running = false) (hb : finishBuild (buildFrame cmd u) = .ok t) : BlockLegal t := by
  obtain ⟨v, hv, rfl⟩ := finishBuild_cases hb
  obtain ⟨hdv, -, -, hparser, hseq⟩ := buildFrame_legal hd hv
  exact finish_legal _ hdv (by rw [hparser]; exact hp) (by rw [hseq]; exact hx)

theorem execFbBuild_legal {cmd : Byte} (h : BlockLegal s) (hs : execFbBuild cmd s = .next t) : BlockLegal t := by
  refine request_keeps hs (refuse_legal h) fun ha hb => ?_
  obtain ⟨hd, -, hp, hx⟩ := h.accepted ha
  exact finishBuild_legal hd hp hx hb

theorem buildRequest_legal {cmd : Byte} {payload : List Byte} (h : BlockLegal s)
    (hs : buildRequest cmd payload s = .next t) : BlockLegal t := by
  refine request_keeps hs (refuse_legal h) fun ha hb => ?_
  obtain ⟨hd, -, hp, hx⟩ := h.accepted ha
  split at hb
  · next hlen =>
    have loaded : DataLegal (loadPayload payload s) := { hd with builder := loadPayload_sound hd.builder hlen }
    exact finishBuild_legal loaded hp hx hb
  · cases hb; exact refuse_legal h

theorem execTSend_legal (h : BlockLegal s) (hs : execTSend s = .next t) : BlockLegal t := by
  refine request_keeps hs (refuse_legal h) fun ha hb => ?_
  obtain ⟨hd, -, hp, hx⟩ := h.accepted ha
  split at hb
  · cases hb; exact refuse_legal h
  · next hn => cases hb; exact sendWaitPoll_legal (startSend_legal hd hp (.of_stopped hx) hn) rfl

theorem execTRecv_legal (h : BlockLegal s) (hs : execTRecv s = .next t) : BlockLegal t := by
  refine request_keeps hs (refuse_legal h) fun ha hb => ?_
  obtain ⟨hd, -, hp, hx⟩ := h.accepted ha
  have begun : BlockLegal { loadRxTimeout s with task := .recv } :=
    (blockLegal_iff _).mpr ⟨{ hd with }, (operationLegal_resting (.inr (.inl rfl))).mpr ⟨hp, hx⟩⟩
  exact pollQueue_legal begun (fun _ _ hu hut hv => recvByte_legal hu hut hv) hb

theorem execTExpect_legal {v : Byte} (h : BlockLegal s) (hs : execTExpect v s = .next t) : BlockLegal t := by
  refine request_keeps hs (refuse_legal h) fun ha hb => ?_
  obtain ⟨hd, -, hp, hx⟩ := h.accepted ha
  have begun : BlockLegal { loadRxTimeout s with task := .expect v } :=
    (blockLegal_iff _).mpr ⟨{ hd with }, (operationLegal_resting (.inr (.inr ⟨v, rfl⟩))).mpr ⟨hp, hx⟩⟩
  exact pollQueue_legal begun (fun _ _ hu hut hv => expectByte_legal hu hut hv) hb

theorem execXEcho_legal (h : BlockLegal s) (hs : execXEcho s = .next t) : BlockLegal t := by
  refine request_keeps hs (refuse_legal h) fun ha hb => ?_
  obtain ⟨hd, -, hp, hx⟩ := h.accepted ha
  split at hb
  · cases hb; exact refuse_legal h
  · next hn =>
    have begun : BlockLegal (startEcho s) := startEcho_legal hd hp (.of_stopped hx) (txlen_pos hn)
    exact pollQueue_legal begun (fun _ _ hu hut hv => echoByte_legal hu hut hv) hb

theorem startParse_accepted_legal (h : BlockLegal s) (ha : accepting s = true) : BlockLegal (startParse s) :=
  have ⟨hd, _, _, hx⟩ := h.accepted ha
  startParse_legal hd (.of_stopped hx)

theorem execFpParse_legal (h : BlockLegal s) (hs : execFpParse s = .next t) : BlockLegal t :=
  request_keeps hs (refuse_legal h) fun ha hb =>
    pollQueue_legal (startParse_accepted_legal h ha) (fun _ _ hu hut hv => parseByte_legal hu hut hv) hb

theorem execXCmd_legal {cmd : Byte} (h : BlockLegal s) (hs : execXCmd cmd s = .next t) : BlockLegal t := by
  refine request_keeps hs (refuse_legal h) fun ha hb => ?_
  obtain ⟨hd, -, hp, -⟩ := h.accepted ha
  have entered : DataLegal { s with
      seq := { s.seq with outvalid := false, xstate := .send }, task := .clearQueue } := { hd with }
  obtain ⟨hdt, hn, htask, hparser, hseq⟩ := buildFrame_legal entered hb
  exact preparing_legal hdt (.inl htask) (by rw [hparser]; exact hp) (by rw [hseq]) (by rw [hseq]) hn

/-- The requests that do all they do in one transition leave the block at rest. -/
theorem atomic_request_legal {body : State → Except Fault State} {v : Half} {u : State} (h : BlockLegal s)
    (hs : request s body = .next t) (hbody : body s = .ok (finish v u)) (data : DataLegal u)
    (hparser : u.parser = s.parser) (hseq : u.seq = s.seq) : BlockLegal t := by
  refine request_keeps hs (refuse_legal h) fun ha hb => ?_
  obtain ⟨-, -, hp, hx⟩ := h.accepted ha
  cases hbody.symm.trans hb
  exact finish_legal _ data (by rw [hparser]; exact hp) (by rw [hseq]; exact hx)

theorem execQAvail_legal (h : BlockLegal s) (hs : execQAvail s = .next t) : BlockLegal t :=
  atomic_request_legal h hs rfl h.data rfl rfl

theorem execQClear_legal (h : BlockLegal s) (hs : execQClear s = .next t) : BlockLegal t :=
  have data : DataLegal (clearQueue s) := { h.data with queue := h.data.queue.clear }
  atomic_request_legal h hs rfl data rfl rfl

theorem execCrcInit_legal (h : BlockLegal s) (hs : execCrcInit s = .next t) : BlockLegal t :=
  have data : DataLegal { s with crcacc := Config.crcSeed } := { h.data with }
  atomic_request_legal h hs rfl data rfl rfl

theorem execCrcUpd_legal {b : Byte} (h : BlockLegal s) (hs : execCrcUpd b s = .next t) : BlockLegal t :=
  have data : DataLegal { s with crcacc := crc8Step s.crcacc b } := { h.data with }
  atomic_request_legal h hs rfl data rfl rfl

theorem execBrStep_legal (h : BlockLegal s) (hs : execBrStep s = .next t) : BlockLegal t :=
  atomic_request_legal h hs rfl (baudStep_data h.data) (baudStep_parser s) (baudStep_seq s)

theorem execBrReconf_legal (h : BlockLegal s) (hs : execBrReconf s = .next t) : BlockLegal t :=
  have data : DataLegal (reconfigure s) := { h.data with }
  atomic_request_legal h hs rfl data rfl rfl

/-! ## The response rows -/

theorem rowMove_legal (hm : RowMove s t) (h : BlockLegal s) : BlockLegal t := by
  cases hm with
  | arrival b => exact receiveEvent_legal h b
  | parseBegins _ ha => exact startParse_accepted_legal h ha
  | micro ready _ _ hm => exact microStep_legal h hm

theorem receiveFrame_legal {frame : List Byte} (h : BlockLegal s)
    (hs : toOutcome (receiveFrame frame s) = .next t) : BlockLegal t :=
  receiveFrame_keeps (fun _ _ => rowMove_legal) (toOutcome_eq_next.mp hs) h

/-! ## The instructions and the step -/

theorem exec_legal {i : Instr} (h : BlockLegal s) (hs : exec i s = .next t) : BlockLegal t := by
  cases i with
  | qPop => exact execQPop_legal h hs
  | qAvail => exact execQAvail_legal h hs
  | qClear => exact execQClear_legal h hs
  | crcInit => exact execCrcInit_legal h hs
  | crcUpd b => exact execCrcUpd_legal h hs
  | fbBuild cmd => exact execFbBuild_legal h hs
  | brStep => exact execBrStep_legal h hs
  | brReconf => exact execBrReconf_legal h hs
  | tSend => exact execTSend_legal h hs
  | tRecv => exact execTRecv_legal h hs
  | tExpect v => exact execTExpect_legal h hs
  | xEcho => exact execXEcho_legal h hs
  | fpParse => exact execFpParse_legal h hs
  | xCmd cmd => exact execXCmd_legal h hs
  | reserved0 | reservedF => cases hs; exact refuse_legal h
  | evRx b => cases hs; exact receiveEvent_legal h b
  | evTxc => cases hs; exact { h with }
  | reqGetSettings p | reqSetPower p | reqSetChannel p | reqSetFrequency p | reqSetMode p | reqGetSettingsV2 p
  | reqGetSettingsV21 p => exact buildRequest_legal h hs
  | rspGetSettings p | rspGetSettingsV2 p => exact receiveFrame_legal h hs
  | rspSetPower p crc | rspSetChannel p crc | rspSetFrequency p crc | rspSetMode p crc | rspGetSettingsV21 p crc =>
    exact receiveFrame_legal h hs
  | rspUnknown rcmd p crc => exact receiveFrame_legal h hs

end

/-- Settles O57: every kind of input keeps the block legal. The invariant does not read the list of inputs. -/
theorem stepKeepsBlockLegal : Obligations.StepKeepsBlockLegal := by
  intro s t h hs
  have taken : ∀ rest, BlockLegal { s with inputs := rest } := fun _ => { h with }
  exact step_keeps hs
    (quiescent := fun _ hm => microStep_legal h hm)
    (instruction := fun _ rest _ _ _ he => exec_legal (taken rest) he)
    (load := fun payload rest => hostLoad_legal (taken rest) payload)
    (read := fun _ _ => { h with })
    (poll := fun _ rest hm => microStep_legal (taken rest) hm)

end Sys2Proof.Machine
end

