-- ==== Sys2Proof/Proofs/Counters.lean ====
section
/-! The invariant of the session counters (10_state.md R34): what it says for each operation in progress, that every
operation keeps it, and that a step which starts no stand-alone parse keeps it. -/

namespace Sys2Proof.Machine

/-! ## The parts of the invariant -/

/-- The counters' bounds, whatever operation is in progress. -/
structure TalliesLegal (l : LinkState) : Prop where
  recv_le : l.recv.toNat ≤ l.sent.toNat
  sent_le : l.sent.toNat ≤ 10
  pct_le : l.lastpct.toNat ≤ 100

/-- A command was counted whose response is not. -/
def ResponseDue (l : LinkState) : Prop := l.recv.toNat < l.sent.toNat

section
variable {s t : State}

theorem CountersLegal.tallies (h : CountersLegal s) : TalliesLegal s.link := ⟨h.recv_le, h.sent_le, h.pct_le⟩

/-- Operations that neither count nor are a stage of an exchange. -/
theorem countersLegal_quiet (ht : s.task = .idle ∨ s.task = .recv ∨ ∃ v, s.task = .expect v) :
    CountersLegal s ↔ TalliesLegal s.link := by
  refine ⟨CountersLegal.tallies, fun ⟨hr, hs, hp⟩ => ⟨hr, hs, hp, ?_, ?_, ?_, ?_⟩⟩ <;>
    rcases ht with ht | ht | ⟨v, ht⟩ <;> simp [ht]

theorem countersLegal_entering (ht : s.task = .clearQueue ∨ s.task = .stepBaud) :
    CountersLegal s ↔ TalliesLegal s.link ∧ s.seq.xstate = .send := by
  constructor
  · exact fun h => ⟨h.tallies, h.task_running (by tauto)⟩
  · rintro ⟨⟨hr, hs, hp⟩, hx⟩
    refine ⟨hr, hs, hp, ?_, ?_, ?_, fun _ => hx⟩ <;> rcases ht with ht | ht <;> simp [ht]

theorem countersLegal_countSent (ht : s.task = .countSent) :
    CountersLegal s ↔ TalliesLegal s.link ∧ s.seq.xstate = .send ∧ s.link.sent.toNat < 10 := by
  constructor
  · exact fun h => ⟨h.tallies, h.task_running (.inl ht), h.before_count ht⟩
  · rintro ⟨⟨hr, hs, hp⟩, hx, hlt⟩
    refine ⟨hr, hs, hp, fun _ => hlt, ?_, ?_, fun _ => hx⟩ <;> simp [ht]

theorem countersLegal_wire (ht : s.task = .sendWait ∨ s.task = .sendByte ∨ s.task = .echo) :
    CountersLegal s ↔ TalliesLegal s.link ∧ (s.seq.xstate.running = true → ResponseDue s.link) := by
  constructor
  · exact fun h => ⟨h.tallies, fun hr => h.awaiting hr (by tauto)⟩
  · rintro ⟨⟨hr, hs, hp⟩, hdue⟩
    refine ⟨hr, hs, hp, ?_, fun hrun _ => hdue hrun, ?_, ?_⟩ <;> rcases ht with ht | ht | ht <;> simp [ht]

theorem countersLegal_parsing (ht : s.task = .parse ∨ s.task = .dispatch) :
    CountersLegal s ↔ TalliesLegal s.link ∧ s.seq.xstate.running = true ∧ ResponseDue s.link := by
  constructor
  · intro h
    have hrun := h.exchange_only ht
    exact ⟨h.tallies, hrun, h.awaiting hrun (by tauto)⟩
  · rintro ⟨⟨hr, hs, hp⟩, hrun, hdue⟩
    refine ⟨hr, hs, hp, ?_, fun _ _ => hdue, fun _ => hrun, ?_⟩ <;> rcases ht with ht | ht <;> simp [ht]

/-- Where no operation is left in progress, the bounds are all there is. -/
theorem countersLegal_of_idle (h : TalliesLegal s.link) (ht : s.task = .idle) : CountersLegal s :=
  (countersLegal_quiet (.inl ht)).mpr h

/-! ## The counters' own changes -/

/-- A response that was due is counted. -/
theorem TalliesLegal.count_recv {l : LinkState} (h : TalliesLegal l) (hdue : ResponseDue l) :
    TalliesLegal { l with recv := l.recv + 1#16 } := by
  have hs := h.sent_le
  have hdue' : l.recv.toNat < l.sent.toNat := hdue
  have hcount : (l.recv + 1#16).toNat = l.recv.toNat + 1 := by
    rw [BitVec.toNat_add, BitVec.toNat_ofNat]; omega
  exact { h with recv_le := hcount.trans_le hdue' }

/-- A command is counted, and its response is due. -/
theorem TalliesLegal.count_sent {l : LinkState} (h : TalliesLegal l) (hlt : l.sent.toNat < 10) :
    TalliesLegal { l with sent := l.sent + 1#16 } ∧ ResponseDue { l with sent := l.sent + 1#16 } := by
  have hr := h.recv_le
  have hcount : (l.sent + 1#16).toNat = l.sent.toNat + 1 := by
    rw [BitVec.toNat_add, BitVec.toNat_ofNat]; omega
  have hdue : l.recv.toNat < (l.sent + 1#16).toNat := by omega
  exact ⟨{ h with recv_le := hdue.le, sent_le := hcount.trans_le hlt }, hdue⟩

/-- With no more responses than commands the success percentage is one (44_baud.md R231). -/
theorem TalliesLegal.storedPct_le {l : LinkState} (h : TalliesLegal l) : (storedPct (successPct l)).toNat ≤ 100 := by
  have hpct : successPct l ≤ 100 := by
    simp only [successPct]
    split
    · exact Nat.zero_le _
    · exact Nat.div_le_of_le_mul (Nat.mul_le_mul_right 100 h.recv_le)
  simp only [storedPct, BitVec.toNat_ofNat]
  omega

theorem warmupLength_le (l : LinkState) : warmupLength l ≤ 10 := by
  simp only [warmupLength, Config.warmNoBase, Config.warmBase]
  split <;> omega

/-- An invocation of the controller keeps the bounds and leaves room to count a command (44_baud.md R230, R240). -/
theorem baudStep_tallies (h : TalliesLegal s.link) :
    TalliesLegal (baudStep s).link ∧ (baudStep s).link.sent.toNat < 10 := by
  have hpct := h.storedPct_le
  rcases baudStep_cases s with ⟨hwarm, e⟩ | ⟨-, -, e⟩ | ⟨-, -, e⟩
  · rw [e]; exact ⟨{ h with pct_le := hpct }, hwarm.trans_le (warmupLength_le _)⟩
  · rw [e]; exact ⟨⟨le_rfl, Nat.zero_le _, hpct⟩, Nat.zero_lt_succ _⟩
  · rw [e]; exact ⟨⟨le_rfl, Nat.zero_le _, hpct⟩, Nat.zero_lt_succ _⟩

/-! ## Waits -/

theorem failedPoll_counters (h : CountersLegal s) : CountersLegal (failedPoll s) := by
  rcases failedPoll_cases s with ⟨-, e⟩ | ⟨-, e⟩
  · rw [e]; exact countersLegal_of_idle h.tallies rfl
  · rw [e]; exact { h with }

theorem failedReadyPoll_counters (h : CountersLegal s) : CountersLegal (failedReadyPoll s) := by
  rcases failedReadyPoll_cases s with ⟨-, e⟩ | ⟨-, e⟩
  · rw [e]; exact countersLegal_of_idle h.tallies rfl
  · rw [e]; exact { h with }

theorem CountersLegal.setQueue (h : CountersLegal s) (q : QueueState) : CountersLegal { s with queue := q } :=
  { h with }

/-- A poll of a receive keeps the counters legal where the use of the byte does. -/
theorem pollQueue_counters {onByte : Byte → State → Except Fault State} (h : CountersLegal s)
    (use : ∀ v u, CountersLegal u → u.task = s.task → onByte v u = .ok t → CountersLegal t)
    (hp : pollQueue s onByte = .ok t) : CountersLegal t := by
  rcases pollQueue_cases hp with ⟨-, rfl⟩ | ⟨v, -, -, hv⟩
  · exact failedPoll_counters h
  · refine use v _ ?_ ?_ hv
    · exact h.setQueue _
    · rfl

/-! ## Sending and verifying the echo -/

theorem endSend_counters (h : TalliesLegal s.link) (hdue : s.seq.xstate.running = true → ResponseDue s.link) :
    CountersLegal (endSend s) := by
  rcases endSend_cases s with ⟨hr, e⟩ | ⟨-, e⟩
  · rw [e]; exact (countersLegal_wire (.inr (.inr rfl))).mpr ⟨h, fun _ => hdue hr⟩
  · rw [e]; exact countersLegal_of_idle h rfl

theorem nextSendByte_counters (h : TalliesLegal s.link) (hdue : s.seq.xstate.running = true → ResponseDue s.link) :
    CountersLegal (nextSendByte s) := by
  rcases nextSendByte_cases s with ⟨-, e⟩ | ⟨-, e⟩
  · rw [e]; exact (countersLegal_wire (.inr (.inl rfl))).mpr ⟨h, hdue⟩
  · rw [e]; exact endSend_counters h hdue

theorem sendWaitPoll_counters (h : CountersLegal s) (ht : s.task = .sendWait) : CountersLegal (sendWaitPoll s) := by
  obtain ⟨htallies, hdue⟩ := (countersLegal_wire (.inl ht)).mp h
  rcases sendWaitPoll_cases s with ⟨-, e⟩ | ⟨-, e⟩
  · rw [e]; exact nextSendByte_counters htallies hdue
  · rw [e]; exact failedPoll_counters h

theorem sendBytePoll_counters {ready : Option Bool} (h : CountersLegal s) (ht : s.task = .sendByte)
    (hs : sendBytePoll ready s = .ok t) : CountersLegal t := by
  obtain ⟨u, hu, hcases⟩ := sendBytePoll_cases hs
  obtain ⟨hlegal, htask⟩ : CountersLegal u ∧ u.task = .sendByte := by
    rcases hu with rfl | rfl
    · exact ⟨h, ht⟩
    · exact ⟨{ h with }, ht⟩
  obtain ⟨htallies, hdue⟩ := (countersLegal_wire (.inr (.inl htask))).mp hlegal
  rcases hcases with ⟨b, -, rfl⟩ | rfl
  · exact nextSendByte_counters htallies hdue
  · exact failedReadyPoll_counters hlegal

/-- An exchange's parse begins with the response due; a stand-alone echo begins none. -/
theorem endEcho_counters (h : TalliesLegal s.link) (hdue : s.seq.xstate.running = true → ResponseDue s.link) :
    CountersLegal (endEcho s) := by
  rcases endEcho_cases s with ⟨hr, e⟩ | ⟨-, e⟩
  · rw [e]; exact (countersLegal_parsing (.inl rfl)).mpr ⟨h, rfl, hdue hr⟩
  · rw [e]; exact countersLegal_of_idle h rfl

theorem echoMatched_counters (i : BitVec 9) (h : CountersLegal s) (ht : s.task = .echo) :
    CountersLegal (echoMatched i s) := by
  obtain ⟨htallies, hdue⟩ := (countersLegal_wire (.inr (.inr ht))).mp h
  rcases echoMatched_cases i s with ⟨-, e⟩ | ⟨-, e⟩
  · rw [e]; exact { h with }
  · rw [e]; exact endEcho_counters htallies hdue

theorem echoByte_counters {b : Byte} (h : CountersLegal s) (ht : s.task = .echo) (hs : echoByte b s = .ok t) :
    CountersLegal t := by
  have matched : ∀ i, CountersLegal (echoMatched i s) := fun i => echoMatched_counters i h ht
  have diverged : CountersLegal (raise .echoMismatch s) := countersLegal_of_idle h.tallies rfl
  rcases echoByte_cases hs with ⟨-, -, rfl⟩ | ⟨-, -, -, rfl⟩ | ⟨-, -, -, rfl⟩ | ⟨-, -, rfl⟩ | ⟨-, -, rfl⟩
  · exact matched _
  · exact matched _
  · exact diverged
  · exact matched _
  · exact diverged

/-! ## The parse -/

/-- What a byte of a parse can do to the counters' invariant: the link stays, and either the parse goes on in the same
exchange or it has ended. -/
structure ParseMove (s t : State) : Prop where
  link : t.link = s.link
  control : t.task = .idle ∨ ((t.task = s.task ∨ t.task = .dispatch) ∧ t.seq = s.seq)

/-- The parse goes on with its parser registers and its timeout written. -/
theorem ParseMove.goes_on (s : State) (r : ParserState) : ParseMove s (loadRxTimeout { s with parser := r }) :=
  ⟨rfl, .inr ⟨.inl rfl, rfl⟩⟩

theorem ParseMove.dispatches (s : State) : ParseMove s { s with task := .dispatch } := ⟨rfl, .inr ⟨.inr rfl, rfl⟩⟩

theorem ParseMove.raises (o : ExchangeOutcome) (s : State) (r : ParserState) :
    ParseMove s (raise o { s with parser := r }) := ⟨rfl, .inl rfl⟩

theorem syncByte_move (b : Byte) (s : State) : ParseMove s (syncByte b s) := by
  rcases syncByte_cases b s with ⟨-, -, e⟩ | ⟨-, n, -, ⟨-, e⟩ | ⟨-, e⟩⟩
  · rw [e]; exact .goes_on s _
  · rw [e]; exact .goes_on s _
  · rw [e]; exact .raises _ s _

theorem endPayload_move (s : State) : ParseMove s (endPayload s) := by
  rcases endPayload_cases s with ⟨-, e⟩ | ⟨-, e⟩
  · rw [e]; exact .dispatches s
  · rw [e]; exact .goes_on s _

theorem nextPayload_move (s : State) (r : ParserState) : ParseMove s (nextPayload { s with parser := r }) := by
  rcases nextPayload_cases { s with parser := r } with ⟨-, e⟩ | ⟨-, e⟩
  · rw [e]; exact .goes_on s r
  · rw [e]; exact { endPayload_move { s with parser := r } with }

theorem crcStageByte_move (b : Byte) (s : State) : ParseMove s (crcStageByte b s) := by
  rcases crcStageByte_cases b s with ⟨-, e⟩ | ⟨-, e⟩
  · rw [e]; exact .dispatches s
  · rw [e]; exact .raises _ s s.parser

theorem parseByte_move {b : Byte} (hs : parseByte b s = .ok t) : ParseMove s t := by
  cases hs
  match s.parser.pstate with
  | .idle | .sync => exact syncByte_move b s
  | .cmd => exact .goes_on s _
  | .len => exact nextPayload_move s _
  | .pay => exact nextPayload_move s _
  | .crc => exact crcStageByte_move b s

theorem parseByte_counters {b : Byte} (h : CountersLegal s) (ht : s.task = .parse) (hs : parseByte b s = .ok t) :
    CountersLegal t := by
  obtain ⟨htallies, hrun, hdue⟩ := (countersLegal_parsing (.inl ht)).mp h
  obtain ⟨hlink, hidle | ⟨htask, hseq⟩⟩ := parseByte_move hs
  · exact countersLegal_of_idle (by rwa [hlink]) hidle
  · rw [ht] at htask
    refine (countersLegal_parsing htask).mpr ?_
    rw [hlink, hseq]
    exact ⟨htallies, hrun, hdue⟩

/-! ## The dispatch -/

/-- The parse has ended with its response counted (43_frame_parser.md R195, R196). -/
structure ResponseCounted (s t : State) : Prop where
  task : t.task = .idle
  link : t.link = { s.link with recv := s.link.recv + 1#16 }

theorem commit_counted (v : VtxSettings) {u : State} (h : u.link = s.link) : ResponseCounted s (commit v u) :=
  ⟨rfl, by rw [commit_link, h]⟩

/-- A decode that begins with a payload read goes on in a state with the same link state. -/
theorem readPayload_bind {i : Nat} {next : Byte × State → Except Fault State}
    (h : (readPayload i s >>= next) = .ok t) : ∃ v u, u.link = s.link ∧ next (v, u) = .ok t := by
  match hr : readPayload i s with
  | .error f => rw [hr] at h; cases h
  | .ok (v, u) =>
    rw [hr] at h
    refine ⟨v, u, ?_, h⟩
    rcases readPayload_cases hr with ⟨-, -, rfl⟩ | ⟨-, -, rfl⟩ <;> rfl

theorem decodeGetSettings_counted {ver : BitVec 2} (h : decodeGetSettings ver s = .ok t) : ResponseCounted s t := by
  obtain ⟨p5, s5, h5, h⟩ := readPayload_bind h
  obtain ⟨p0, s0, h0, h⟩ := readPayload_bind h
  obtain ⟨p1, s1, h1, h⟩ := readPayload_bind h
  obtain ⟨p2, s2, h2, h⟩ := readPayload_bind h
  obtain ⟨p3, s3, h3, h⟩ := readPayload_bind h
  obtain ⟨p4, s4, h4, h⟩ := readPayload_bind h
  cases h
  exact commit_counted _ (by rw [h4, h3, h2, h1, h0]; exact h5)

theorem decodeSetFrequency_counted (h : decodeSetFrequency s = .ok t) : ResponseCounted s t := by
  obtain ⟨p0, s0, h0, h⟩ := readPayload_bind h
  obtain ⟨p1, s1, h1, h⟩ := readPayload_bind h
  cases h
  exact commit_counted _ (h1.trans h0)

theorem decodeSetChannel_counted (h : decodeSetChannel s = .ok t) : ResponseCounted s t := by
  obtain ⟨p0, s0, h0, h⟩ := readPayload_bind h
  cases h
  exact commit_counted _ h0

theorem decodeSetPower_counted (h : decodeSetPower s = .ok t) : ResponseCounted s t := by
  obtain ⟨p0a, s0, h0, h⟩ := readPayload_bind h
  obtain ⟨p0b, s1, h1, h⟩ := readPayload_bind h
  obtain ⟨p1a, s2, h2, h⟩ := readPayload_bind h
  obtain ⟨p1b, s3, h3, h⟩ := readPayload_bind h
  obtain ⟨p0c, s4, h4, h⟩ := readPayload_bind h
  cases h
  exact commit_counted _ (by rw [h4, h3, h2, h1, h0])

theorem decodeSetMode_counted (h : decodeSetMode s = .ok t) : ResponseCounted s t := by
  obtain ⟨p0, s0, h0, h⟩ := readPayload_bind h
  cases h
  exact commit_counted _ h0

theorem decodeUnknown_counted (h : decodeUnknown s = .ok t) : ResponseCounted s t := by
  cases h
  exact ⟨rfl, rfl⟩

/-- Every dispatch that answers counts its response, whichever id it has. -/
theorem dispatch_counted (h : dispatch s = .ok t) : ResponseCounted s t := by
  simp only [dispatch] at h
  split_ifs at h
  · exact decodeGetSettings_counted h
  · exact decodeGetSettings_counted h
  · exact decodeGetSettings_counted h
  · exact decodeSetFrequency_counted h
  · exact decodeSetChannel_counted h
  · exact decodeSetPower_counted h
  · exact decodeSetMode_counted h
  · exact decodeUnknown_counted h

theorem dispatch_counters (h : CountersLegal s) (ht : s.task = .dispatch) (hs : dispatch s = .ok t) :
    CountersLegal t := by
  obtain ⟨htallies, -, hdue⟩ := (countersLegal_parsing (.inr ht)).mp h
  obtain ⟨htask, hlink⟩ := dispatch_counted hs
  exact countersLegal_of_idle (by rw [hlink]; exact htallies.count_recv hdue) htask

/-! ## The micro-steps -/

theorem stepBaud_counters (h : CountersLegal s) (ht : s.task = .stepBaud) :
    CountersLegal { baudStep s with task := .countSent } := by
  obtain ⟨htallies, hx⟩ := (countersLegal_entering (.inr ht)).mp h
  obtain ⟨htallies', hlt⟩ := baudStep_tallies htallies
  exact (countersLegal_countSent rfl).mpr ⟨htallies', by simpa, hlt⟩

theorem countSent_counters (h : CountersLegal s) (ht : s.task = .countSent) : CountersLegal (countSent s) := by
  obtain ⟨htallies, -, hlt⟩ := (countersLegal_countSent ht).mp h
  obtain ⟨htallies', hdue⟩ := htallies.count_sent hlt
  exact (countersLegal_wire (.inl rfl)).mpr ⟨htallies', fun _ => hdue⟩

theorem microStep_counters {ready : Option Bool} (h : CountersLegal s) (hm : microStep ready s = .ok t) :
    CountersLegal t := by
  match ht : s.task with
  | .idle => rw [microStep_idle ready ht] at hm; cases hm; exact h
  | .clearQueue =>
    rw [microStep_clearQueue ready ht] at hm
    cases hm
    exact (countersLegal_entering (.inr rfl)).mpr ((countersLegal_entering (.inl ht)).mp h)
  | .stepBaud => rw [microStep_stepBaud ready ht] at hm; cases hm; exact stepBaud_counters h ht
  | .countSent => rw [microStep_countSent ready ht] at hm; cases hm; exact countSent_counters h ht
  | .sendWait => rw [microStep_sendWait ready ht] at hm; cases hm; exact sendWaitPoll_counters h ht
  | .sendByte => rw [microStep_sendByte ready ht] at hm; exact sendBytePoll_counters h ht hm
  | .recv =>
    rw [microStep_recv ready ht] at hm
    exact pollQueue_counters h (fun _ _ hu _ hb => by cases hb; exact countersLegal_of_idle hu.tallies rfl) hm
  | .expect v =>
    rw [microStep_expect ready ht] at hm
    exact pollQueue_counters h (fun _ _ hu _ hb => by cases hb; exact countersLegal_of_idle hu.tallies rfl) hm
  | .echo =>
    rw [microStep_echo ready ht] at hm
    exact pollQueue_counters h (fun _ _ hu hut hb => echoByte_counters hu (hut.trans ht) hb) hm
  | .parse =>
    rw [microStep_parse ready ht] at hm
    exact pollQueue_counters h (fun _ _ hu hut hb => parseByte_counters hu (hut.trans ht) hb) hm
  | .dispatch => rw [microStep_dispatch ready ht] at hm; exact dispatch_counters h ht hm

end

end Sys2Proof.Machine
end

