-- ==== Sys2Proof/Proofs/CounterSteps.lean ====
section
/-! Every instruction that begins no stand-alone parse keeps the counters legal, and so does every step on an input that
starts none. -/

namespace Sys2Proof.Machine

/-! ## Which inputs begin a parse -/

/-- The instructions that begin a parse where a request is accepted: `FP.PARSE` and the response rows. -/
def beginsParse : Instr → Bool
  | .fpParse | .rspGetSettings _ | .rspSetPower _ _ | .rspSetChannel _ _ | .rspSetFrequency _ _ | .rspSetMode _ _
  | .rspGetSettingsV2 _ | .rspGetSettingsV21 _ _ | .rspUnknown _ _ _ => true
  | .qPop | .qAvail | .qClear | .crcInit | .crcUpd _ | .fbBuild _ | .brStep | .brReconf | .tSend | .tRecv
  | .tExpect _ | .xEcho | .xCmd _ | .reserved0 | .reservedF | .evRx _ | .evTxc | .reqGetSettings _ | .reqSetPower _
  | .reqSetChannel _ | .reqSetFrequency _ | .reqSetMode _ | .reqGetSettingsV2 _ | .reqGetSettingsV21 _ => false

theorem opField_of_beginsParse {w : BitVec 12} (h : beginsParse (decodeCommand w) = true) : opField w = 0xD#4 := by
  simp only [decodeCommand] at h
  split at h
  case h_14 hop => exact BitVec.eq_of_toNat_eq hop
  all_goals cases h

theorem decodeEvent_beginsNoParse (w : BitVec 9) : beginsParse (decodeEvent w) = false := by
  simp only [decodeEvent]
  split <;> rfl

theorem requestOf_beginsNoParse {cb : Byte} {payload : List Byte} {i : Instr} (h : requestOf cb payload = .ok i) :
    beginsParse i = false := by
  simp only [requestOf] at h
  split_ifs at h <;> cases h <;> rfl

theorem decodeRequest_beginsNoParse {bytes : List Byte} {i : Instr} (h : decodeRequest bytes = .ok i) :
    beginsParse i = false := by
  simp only [decodeRequest] at h
  split at h
  · split_ifs at h
    exact requestOf_beginsNoParse h
  · cases h

section
variable {s t : State}

/-- A packet that is let through begins a parse only where no request is accepted. -/
theorem not_accepting_of_beginsParse {p : Packet} {i : Instr} (hstart : startsNoParse s (.packet p) = true)
    (hd : decode p = .ok i) (hi : beginsParse i = true) : accepting s = false := by
  cases p with
  | cmd w =>
    cases hd
    simpa [startsNoParse, opField_of_beginsParse hi] using hstart
  | ev w => cases hd; simp [decodeEvent_beginsNoParse] at hi
  | req bytes => simp [decodeRequest_beginsNoParse hd] at hi
  | rsp bytes => simpa [startsNoParse] using hstart

/-! ## The requests -/

/-- A request's refusal changes no counter, and an accepted one begins with the bounds, outside an exchange. -/
theorem request_counters {body : State → Except Fault State} (h : CountersLegal s) (hs : request s body = .next t)
    (accepted : TalliesLegal s.link → s.seq.xstate.running = false → body s = .ok t → CountersLegal t) :
    CountersLegal t :=
  request_keeps hs { h with } fun ha hb => accepted h.tallies ((accepting_iff s).mp ha).1 hb

/-- The requests that do all they do in one transition. -/
theorem atomic_request_counters {body : State → Except Fault State} {v : Half} {u : State} (h : CountersLegal s)
    (hs : request s body = .next t) (hbody : body s = .ok (finish v u)) (hu : TalliesLegal u.link) :
    CountersLegal t :=
  request_counters h hs fun _ _ hb => by
    cases hbody.symm.trans hb
    exact countersLegal_of_idle hu rfl

theorem execQPop_counters (h : CountersLegal s) (hs : execQPop s = .next t) : CountersLegal t := by
  refine request_counters h hs fun htallies _ hb => ?_
  split at hb
  · cases hb
  · next hpop =>
    rcases pop_cases hpop with ⟨-, hr, -⟩ | ⟨w, -, -, -, rfl⟩
    · cases hr
    · cases hb; exact countersLegal_of_idle htallies rfl
  · next hpop =>
    rcases pop_cases hpop with ⟨-, -, rfl⟩ | ⟨w, -, -, hr, -⟩
    · cases hb; exact { h with }
    · cases hr

theorem buildFrame_link {cmd : Byte} (h : buildFrame cmd s = .ok t) : t.link = s.link := by
  obtain ⟨payload, -, rfl⟩ := buildFrame_cases h
  rfl

theorem finishBuild_counters {cmd : Byte} (h : TalliesLegal s.link) (hb : finishBuild (buildFrame cmd s) = .ok t) :
    CountersLegal t := by
  obtain ⟨u, hu, rfl⟩ := finishBuild_cases hb
  exact countersLegal_of_idle (by rw [finish_link, buildFrame_link hu]; exact h) rfl

theorem buildRequest_counters {cmd : Byte} {payload : List Byte} (h : CountersLegal s)
    (hs : buildRequest cmd payload s = .next t) : CountersLegal t := by
  refine request_counters h hs fun htallies _ hb => ?_
  split at hb
  · exact finishBuild_counters (s := loadPayload payload s) htallies hb
  · cases hb; exact { h with }

theorem execTSend_counters (h : CountersLegal s) (hs : execTSend s = .next t) : CountersLegal t := by
  refine request_counters h hs fun htallies hx hb => ?_
  split at hb
  · cases hb; exact { h with }
  · cases hb
    have begun : CountersLegal (startSend s) :=
      (countersLegal_wire (.inl rfl)).mpr ⟨htallies, fun hr => absurd (hx.symm.trans hr) (by decide)⟩
    exact sendWaitPoll_counters begun rfl

theorem execTRecv_counters (h : CountersLegal s) (hs : execTRecv s = .next t) : CountersLegal t := by
  refine request_counters h hs fun htallies _ hb => ?_
  have begun : CountersLegal { loadRxTimeout s with task := .recv } :=
    (countersLegal_quiet (.inr (.inl rfl))).mpr htallies
  exact pollQueue_counters begun (fun _ _ hu _ hv => by cases hv; exact countersLegal_of_idle hu.tallies rfl) hb

theorem execTExpect_counters {v : Byte} (h : CountersLegal s) (hs : execTExpect v s = .next t) :
    CountersLegal t := by
  refine request_counters h hs fun htallies _ hb => ?_
  have begun : CountersLegal { loadRxTimeout s with task := .expect v } :=
    (countersLegal_quiet (.inr (.inr ⟨v, rfl⟩))).mpr htallies
  exact pollQueue_counters begun (fun _ _ hu _ hv => by cases hv; exact countersLegal_of_idle hu.tallies rfl) hb

theorem execXEcho_counters (h : CountersLegal s) (hs : execXEcho s = .next t) : CountersLegal t := by
  refine request_counters h hs fun htallies hx hb => ?_
  split at hb
  · cases hb; exact { h with }
  · have begun : CountersLegal (startEcho s) :=
      (countersLegal_wire (.inr (.inr rfl))).mpr ⟨htallies, fun hr => absurd (hx.symm.trans hr) (by decide)⟩
    exact pollQueue_counters begun (fun _ _ hu hut hv => echoByte_counters hu hut hv) hb

theorem execXCmd_counters {cmd : Byte} (h : CountersLegal s) (hs : execXCmd cmd s = .next t) : CountersLegal t := by
  refine request_counters h hs fun htallies _ hb => ?_
  obtain ⟨payload, -, rfl⟩ := buildFrame_cases hb
  exact (countersLegal_entering (.inl rfl)).mpr ⟨htallies, rfl⟩

/-- Where no request is accepted `FP.PARSE` is refused. -/
theorem execFpParse_counters (h : CountersLegal s) (ha : accepting s = false) (hs : execFpParse s = .next t) :
    CountersLegal t :=
  request_keeps hs { h with } fun ha' => absurd ha' (by simp [ha])

/-- Where no request is accepted a response row's bytes go to the operation in progress. -/
theorem receiveFrame_counters {frame : List Byte} (h : CountersLegal s) (ha : accepting s = false)
    (hs : toOutcome (receiveFrame frame s) = .next t) : CountersLegal t := by
  have hframe := toOutcome_eq_next.mp hs
  simp only [receiveFrame, ha, if_neg Bool.false_ne_true] at hframe
  split at hframe
  · cases hframe
  · next u hu =>
    have fed : CountersLegal u := feed_keeps (fun _ _ hv => { hv with }) (fun _ _ => microStep_counters) h hu
    split at hframe
    · exact microStep_counters fed hframe
    · cases hframe; exact fed

/-! ## The instructions and the step -/

theorem execFbBuild_counters {cmd : Byte} (h : CountersLegal s) (hs : execFbBuild cmd s = .next t) :
    CountersLegal t :=
  request_counters h hs fun htallies _ hb => finishBuild_counters htallies hb

theorem execQAvail_counters (h : CountersLegal s) (hs : execQAvail s = .next t) : CountersLegal t :=
  atomic_request_counters h hs rfl h.tallies

theorem execQClear_counters (h : CountersLegal s) (hs : execQClear s = .next t) : CountersLegal t :=
  atomic_request_counters h hs rfl h.tallies

theorem execCrcInit_counters (h : CountersLegal s) (hs : execCrcInit s = .next t) : CountersLegal t :=
  atomic_request_counters h hs rfl h.tallies

theorem execCrcUpd_counters {b : Byte} (h : CountersLegal s) (hs : execCrcUpd b s = .next t) : CountersLegal t :=
  atomic_request_counters h hs rfl h.tallies

theorem execBrStep_counters (h : CountersLegal s) (hs : execBrStep s = .next t) : CountersLegal t :=
  atomic_request_counters h hs rfl (baudStep_tallies h.tallies).1

theorem execBrReconf_counters (h : CountersLegal s) (hs : execBrReconf s = .next t) : CountersLegal t :=
  atomic_request_counters h hs rfl h.tallies

theorem exec_counters {i : Instr} (h : CountersLegal s) (hparse : beginsParse i = true → accepting s = false)
    (hs : exec i s = .next t) : CountersLegal t := by
  cases i with
  | qPop => exact execQPop_counters h hs
  | qAvail => exact execQAvail_counters h hs
  | qClear => exact execQClear_counters h hs
  | crcInit => exact execCrcInit_counters h hs
  | crcUpd b => exact execCrcUpd_counters h hs
  | fbBuild cmd => exact execFbBuild_counters h hs
  | brStep => exact execBrStep_counters h hs
  | brReconf => exact execBrReconf_counters h hs
  | tSend => exact execTSend_counters h hs
  | tRecv => exact execTRecv_counters h hs
  | tExpect v => exact execTExpect_counters h hs
  | xEcho => exact execXEcho_counters h hs
  | fpParse => exact execFpParse_counters h (hparse rfl) hs
  | xCmd cmd => exact execXCmd_counters h hs
  | reserved0 | reservedF => cases hs; exact { h with }
  | evRx b => cases hs; exact { h with }
  | evTxc => cases hs; exact { h with }
  | reqGetSettings p | reqSetPower p | reqSetChannel p | reqSetFrequency p | reqSetMode p | reqGetSettingsV2 p
  | reqGetSettingsV21 p => exact buildRequest_counters h hs
  | rspGetSettings p | rspGetSettingsV2 p => exact receiveFrame_counters h (hparse rfl) hs
  | rspSetPower p crc | rspSetChannel p crc | rspSetFrequency p crc | rspSetMode p crc | rspGetSettingsV21 p crc =>
    exact receiveFrame_counters h (hparse rfl) hs
  | rspUnknown rcmd p crc => exact receiveFrame_counters h (hparse rfl) hs

theorem hostLoad_counters (h : CountersLegal s) (payload : List Byte) : CountersLegal (hostLoad payload s) := by
  simp only [hostLoad]
  split
  · exact { h with }
  · exact { h with }

end

/-- Settles O59: a response is counted only by a parse, and the only parses are an exchange's, whose command was counted
before. -/
theorem countersStayLegal : Obligations.CountersStayLegal := by
  intro s t h hstart hs
  have taken : ∀ rest, CountersLegal { s with inputs := rest } := fun _ => { h with }
  exact step_keeps hs
    (quiescent := fun _ hm => microStep_counters h hm)
    (instruction := fun p rest i hin hd he =>
      have let_through : startsNoParse s (.packet p) = true := hstart _ (by rw [hin]; rfl)
      exec_counters (taken rest) (not_accepting_of_beginsParse let_through hd) he)
    (load := fun payload rest => hostLoad_counters (taken rest) payload)
    (read := fun _ _ => { h with })
    (poll := fun _ rest hm => microStep_counters (taken rest) hm)

end Sys2Proof.Machine
end

