-- ==== Sys2Proof/Proofs/Reset.lean ====
section
/-! Both invariants hold after reset (70_reset_and_hazards.md R340, R341). -/

namespace Sys2Proof.Machine

theorem arrayLegal_nil (size : Nat) : ArrayLegal [] size := ⟨rfl, nofun⟩

/-- Nothing is unread and nothing is built or loaded after reset (70_reset_and_hazards.md R340, R341). -/
theorem resetWith_data {qcap : Nat} {txTimeout : Half} (hcap : 1 ≤ qcap) (ht : txTimeout ≠ 0#16) :
    DataLegal (State.resetWith qcap txTimeout) where
  timeout_pos := ht
  queue :=
    { legal := ⟨hcap, hcap, hcap, nofun⟩
      unread := fun i hi => by simp [State.resetWith, QueueState.avail] at hi
      stored := arrayLegal_nil _ }
  builder :=
    { payin := arrayLegal_nil _
      loaded := fun _ hi => absurd hi (Nat.not_lt_zero _)
      txbuf := arrayLegal_nil _
      txlen := .inl rfl
      built := fun _ hi => absurd hi (Nat.not_lt_zero _) }
  pb := arrayLegal_nil _
  ndisc := Nat.zero_le _
  baud := (baudLegal_iff (State.resetWith 1 1#16).link).mpr (by decide)

/-- Settles O56: the block is at rest after reset, with legal data and all counters 0. -/
theorem resetIsLegal : Obligations.ResetIsLegal := fun _ _ hcap ht =>
  ⟨blockLegal_of_idle (resetWith_data hcap ht) rfl rfl rfl,
    countersLegal_of_idle ⟨le_rfl, Nat.zero_le _, Nat.zero_le _⟩ rfl⟩

end Sys2Proof.Machine
end

section
/-! What a step does with a packet (20_memory.md R70, R74; entries 1 and 14). -/

namespace Sys2Proof.Machine

/-- Settles O7, from the step's equation for a packet that decodes and its equation for one that does not. -/
theorem stepRunsDecodedInstruction : Obligations.StepRunsDecodedInstruction :=
  fun _ _ _ hin => ⟨fun _ hd => step_packet hin hd, fun _ hd => step_bad_packet hin hd⟩

end Sys2Proof.Machine
end

section
/-! The decoder and the encoder, row by row (30_encoding.md R90 to R114): what a port word and a frame decode to, which
frames decode at all, and the refusals that the request words of R112 meet. -/

namespace Sys2Proof.Machine

/-! ## The words of the two ports -/

@[simp] theorem opField_append (op : BitVec 4) (arg : Byte) : opField (op ++ arg) = op :=
  BitVec.extractLsb'_append_eq_left

@[simp] theorem argField_append (op : BitVec 4) (arg : Byte) : argField (op ++ arg) = arg :=
  BitVec.extractLsb'_append_eq_right

/-- The event bit selects the event (R113). -/
theorem decodeEvent_append (ev : BitVec 1) (data : Byte) :
    decodeEvent (ev ++ data) = if ev.getLsbD 0 then .evTxc else .evRx data := by
  rw [decodeEvent, BitVec.getLsbD_append, BitVec.extractLsb'_append_eq_right]
  rfl

theorem decodeCommand_wf (w : BitVec 12) : (decodeCommand w).wf = true := by
  simp only [decodeCommand]
  split <;> rfl

theorem decodeEvent_wf (w : BitVec 9) : (decodeEvent w).wf = true := by
  simp only [decodeEvent]
  split <;> rfl

/-- Settles O4: the two fields of the word select the row and its operand. -/
theorem operationCodeTable : Obligations.OperationCodeTable := fun arg => by
  simp [decode, decodeCommand]

/-- Settles O5: neither event of agent P writes the result port. -/
theorem eventPortWords : Obligations.EventPortWords := fun data s =>
  ⟨congrArg _ (decodeEvent_append 0#1 data), congrArg _ (decodeEvent_append 1#1 data),
    ⟨receiveEvent data s, rfl, rfl, rfl⟩, ⟨_, rfl, rfl⟩⟩

/-! ## The length byte -/

theorem toNat_lengthByte {payload : List Byte} (h : fitsLength payload = true) :
    (lengthByte payload).toNat = payload.length := toNat_ofNat_length (of_decide_eq_true h)

/-- A payload as long as a length byte says fits, and that byte is its length byte (R92). -/
theorem fitsLength_of_length_eq {payload : List Byte} {len : Byte} (h : payload.length = len.toNat) :
    fitsLength payload = true ∧ len = lengthByte payload :=
  ⟨decide_eq_true (h ▸ Nat.le_of_lt_succ len.isLt), by
    rw [lengthByte, h, BitVec.ofNat_toNat, BitVec.setWidth_eq]⟩

/-! ## Request frames -/

/-- The frame that `FB.BUILD cmd` builds decodes by its command byte (R90, R91). -/
theorem decodeRequest_requestFrame (cmd : Byte) {payload : List Byte} (h : fitsLength payload = true) :
    decodeRequest (requestFrame cmd payload) = requestOf (cmdByte cmd) payload := by
  simp [requestFrame, requestBody, requestCrc, decodeRequest, toNat_lengthByte h]

/-- A request row is the row of its command byte: it carries the payload and encodes to that command's frame. -/
theorem requestOf_sound {cb : Byte} {payload : List Byte} {i : Instr} (h : requestOf cb payload = .ok i) :
    ∃ cmd, cb = cmdByte cmd ∧ i.wf = fitsLength payload ∧ encode i = .req (requestFrame cmd payload) := by
  simp only [requestOf, beq_iff_eq] at h
  split_ifs at h with hcb hcb hcb hcb hcb hcb hcb <;> cases h <;> exact ⟨_, hcb, rfl, rfl⟩

/-- Each check of the decoder fixes one part of the frame; the command byte fixes the row. -/
theorem decodeRequest_sound {bytes : List Byte} {i : Instr} (h : decodeRequest bytes = .ok i) :
    i.wf = true ∧ encode i = .req bytes := by
  simp only [decodeRequest] at h
  split at h
  · next p m0 m1 cb len rest =>
    split_ifs at h with hpad hmagic hlen hcrc
    obtain rfl | ⟨payload, crc, rfl⟩ := rest.eq_nil_or_concat'
    · simp at hlen
    · simp only [bne_iff_ne, ne_eq, Bool.or_eq_true, not_or, not_not, List.length_append, List.length_singleton,
        Nat.add_right_cancel_iff, List.getLastD_concat, List.dropLast_concat] at hpad hmagic hlen hcrc h
      obtain ⟨rfl, rfl⟩ := hmagic
      obtain ⟨hfits, rfl⟩ := fitsLength_of_length_eq hlen
      obtain ⟨cmd, rfl, hwf, henc⟩ := requestOf_sound h
      subst hpad hcrc
      exact ⟨hwf.trans hfits, henc⟩
  · cases h

/-! ## Response frames -/

/-- An id that is none of the seven is not one of the two without trailing CRC (R96, R100). -/
theorem isLegacyId_of_not_commandId {rc : Byte} (h : isCommandId rc = false) : isLegacyId rc = false := by
  simp_all [isCommandId, isLegacyId]

/-- An id that is none of the seven has the row of the unknown response (R102). -/
theorem responseOf_of_not_commandId {rc : Byte} (payload : List Byte) (crc : Byte) (h : isCommandId rc = false) :
    responseOf rc payload crc = .rspUnknown rc payload crc := by
  simp_all [isCommandId, responseOf]

theorem legacyResponseOf_sound {rc : Byte} (payload : List Byte) (hid : isLegacyId rc = true) :
    (legacyResponseOf rc payload).wf = fitsLength payload ∧
    encode (legacyResponseOf rc payload) = .rsp (legacyFrame rc payload) := by
  simp only [isLegacyId, Bool.or_eq_true, beq_iff_eq] at hid
  obtain rfl | rfl := hid <;> exact ⟨rfl, rfl⟩

theorem responseOf_sound {rc : Byte} (payload : List Byte) (crc : Byte) (hid : isLegacyId rc = false) :
    (responseOf rc payload crc).wf = fitsLength payload ∧
    encode (responseOf rc payload crc) = .rsp (responseFrame rc payload crc) := by
  by_cases hknown : isCommandId rc = true
  · simp only [isLegacyId, Bool.or_eq_false_iff, beq_eq_false_iff_ne] at hid
    simp only [isCommandId, Bool.or_eq_true, beq_iff_eq, hid, false_or, or_false] at hknown
    obtain (((rfl | rfl) | rfl) | rfl) | rfl := hknown <;> exact ⟨rfl, rfl⟩
  · have hunknown : isCommandId rc = false := by simpa using hknown
    rw [responseOf_of_not_commandId payload crc hunknown]
    exact ⟨by simp [Instr.wf, hunknown], rfl⟩

/-- A frame without trailing CRC decodes to the row of its id (R96). -/
theorem decode_legacyResponseOf (rc : Byte) {payload : List Byte} (hid : isLegacyId rc = true)
    (h : fitsLength payload = true) :
    decode (encode (legacyResponseOf rc payload)) = .ok (legacyResponseOf rc payload) := by
  rw [(legacyResponseOf_sound payload hid).2]
  simp [legacyFrame, decode, decodeResponse, hid, toNat_lengthByte h]

/-- A frame with a trailing CRC decodes to the row of its id, whatever the CRC byte is (R94, R101). -/
theorem decode_responseOf (rc : Byte) {payload : List Byte} (crc : Byte) (hid : isLegacyId rc = false)
    (h : fitsLength payload = true) :
    decode (encode (responseOf rc payload crc)) = .ok (responseOf rc payload crc) := by
  rw [(responseOf_sound payload crc hid).2]
  simp [responseFrame, legacyFrame, decode, decodeResponse, hid, toNat_lengthByte h]

/-- The id says whether the last byte is a CRC; the magic and the length byte are fixed by the checks. -/
theorem decodeResponse_sound {bytes : List Byte} {i : Instr} (h : decodeResponse bytes = .ok i) :
    i.wf = true ∧ encode i = .rsp bytes := by
  simp only [decodeResponse] at h
  split at h
  · next m0 m1 rc len rest =>
    split_ifs at h with hmagic hid hlen hlen
    · cases h
      simp only [bne_iff_ne, ne_eq, Bool.or_eq_true, not_or, not_not] at hmagic hlen
      obtain ⟨rfl, rfl⟩ := hmagic
      obtain ⟨hfits, rfl⟩ := fitsLength_of_length_eq hlen
      obtain ⟨hwf, henc⟩ := legacyResponseOf_sound rest hid
      exact ⟨hwf.trans hfits, henc⟩
    · cases h
      obtain rfl | ⟨payload, crc, rfl⟩ := rest.eq_nil_or_concat'
      · simp at hlen
      · simp only [bne_iff_ne, ne_eq, Bool.or_eq_true, not_or, not_not, List.length_append, List.length_singleton,
          Nat.add_right_cancel_iff, List.getLastD_concat, List.dropLast_concat] at hmagic hlen ⊢
        obtain ⟨rfl, rfl⟩ := hmagic
        obtain ⟨hfits, rfl⟩ := fitsLength_of_length_eq hlen
        obtain ⟨hwf, henc⟩ := responseOf_sound payload crc (by simpa using hid)
        exact ⟨hwf.trans hfits, henc⟩
  · cases h

/-! ## Decode against encode -/

/-- Settles O1: a port word by its fields, a frame by the row of its command byte or id. -/
theorem encodeThenDecode : Obligations.EncodeThenDecode := by
  intro i hwf
  cases i with
  | reserved0 | qPop | qAvail | qClear | crcInit | brStep | brReconf | tSend | tRecv | xEcho | fpParse
  | reservedF => rfl
  | crcUpd arg | fbBuild arg | tExpect arg | xCmd arg => simp [encode, commandWord, decode, decodeCommand]
  | evRx data => exact congrArg _ (decodeEvent_append 0#1 data)
  | evTxc => exact congrArg _ (decodeEvent_append 1#1 0#8)
  | reqGetSettings p | reqSetPower p | reqSetChannel p | reqSetFrequency p | reqSetMode p | reqGetSettingsV2 p
  | reqGetSettingsV21 p => exact decodeRequest_requestFrame _ hwf
  | rspGetSettings p => exact decode_legacyResponseOf Config.cmdGetSettings rfl hwf
  | rspGetSettingsV2 p => exact decode_legacyResponseOf Config.cmdGetSettingsV2 rfl hwf
  | rspSetPower p crc => exact decode_responseOf Config.cmdSetPower crc rfl hwf
  | rspSetChannel p crc => exact decode_responseOf Config.cmdSetChannel crc rfl hwf
  | rspSetFrequency p crc => exact decode_responseOf Config.cmdSetFrequency crc rfl hwf
  | rspSetMode p crc => exact decode_responseOf Config.cmdSetMode crc rfl hwf
  | rspGetSettingsV21 p crc => exact decode_responseOf Config.cmdGetSettingsV21 crc rfl hwf
  | rspUnknown rc p crc =>
    simp only [Instr.wf, Bool.and_eq_true, Bool.not_eq_true'] at hwf
    obtain ⟨hfits, hunknown⟩ := hwf
    rw [← responseOf_of_not_commandId p crc hunknown]
    exact decode_responseOf rc crc (isLegacyId_of_not_commandId hunknown) hfits

/-- Settles O2: every port word is an instruction without a length, and a frame's checks bound its payload. -/
theorem decodedIsWellFormed : Obligations.DecodedIsWellFormed := by
  intro p i h
  cases p with
  | cmd w => cases h; exact decodeCommand_wf w
  | ev w => cases h; exact decodeEvent_wf w
  | req bytes => exact (decodeRequest_sound h).1
  | rsp bytes => exact (decodeResponse_sound h).1

/-- Settles O3, from the soundness of the decoder for each kind of frame. -/
theorem frameDecodeThenEncode : Obligations.FrameDecodeThenEncode :=
  ⟨fun _ _ h => (decodeRequest_sound h).2, fun _ _ h => (decodeResponse_sound h).2⟩

/-! ## Refused requests -/

theorem running_eq_false_iff (x : XState) : x.running = false ↔ x = .idle ∨ x = .done := by
  cases x <;> decide

/-- Where no request is accepted every word of the command port is refused, the reserved codes among them (R112). -/
theorem exec_decodeCommand_refused {s : State} (w : BitVec 12) (ha : accepting s = false) :
    exec (decodeCommand w) s = .next s.refuse := by
  simp only [decodeCommand]
  split
  case h_1 => rfl
  case h_16 => rfl
  all_goals
    simp only [exec, execQPop, execQAvail, execQClear, execCrcInit, execCrcUpd, execFbBuild, execBrStep, execBrReconf,
      execTSend, execTRecv, execTExpect, execXEcho, execFpParse, execXCmd, request_refused _ ha]

/-- A reserved code is refused in every state, any other word where no request is accepted (R112). -/
theorem command_refused {s : State} {w : BitVec 12}
    (h : opField w = 0x0#4 ∨ opField w = 0xF#4 ∨ accepting s = false) :
    exec (decodeCommand w) s = .next s.refuse := by
  obtain h0 | hF | ha := h
  · simp only [decodeCommand, h0]; rfl
  · simp only [decodeCommand, hF]; rfl
  · exact exec_decodeCommand_refused w ha

/-- A request row is refused with its load where no request is accepted, or where its payload is too long (R10, R112;
entry 11). -/
theorem buildRequest_refused {s : State} (cmd : Byte) {payload : List Byte}
    (h : accepting s = false ∨ 255 < payload.length) : buildRequest cmd payload s = .next s.refuse := by
  by_cases ha : accepting s = true
  · have hlong : ¬ payload.length ≤ Config.payMax := Nat.not_le.mpr (h.resolve_left (by simp [ha]))
    rw [buildRequest, request_accepted _ ha, if_neg hlong, toOutcome_ok]
  · exact request_refused _ (by simpa using ha)

theorem accepting_eq_false_of_running {s : State} (h : s.seq.xstate.running = true) : accepting s = false := by
  simp [accepting, h]

theorem accepting_eq_false_of_busy {s : State} (h : s.task ≠ .idle) : accepting s = false := by
  simp [accepting, h]

/-- Settles O52: an exchange that runs keeps the port from accepting. -/
theorem requestsRefusedDuringExchange : Obligations.RequestsRefusedDuringExchange := by
  intro s w h
  refine ⟨decodeCommand w, 0#16, rfl, command_refused (h.imp_right (Or.imp_right ?_))⟩
  rintro ⟨hidle, hdone⟩
  have running := mt (running_eq_false_iff s.seq.xstate).mp (not_or.mpr ⟨hidle, hdone⟩)
  exact accepting_eq_false_of_running (by simpa using running)

/-- Settles O53: the words by `exec_decodeCommand_refused`, the seven request rows by `buildRequest_refused`. -/
theorem requestsRefusedWhileBusy : Obligations.RequestsRefusedWhileBusy := by
  intro s
  refine ⟨?_, fun hbusy w => ⟨decodeCommand w, rfl, ?_⟩, fun payload h i hi => ?_⟩
  · rw [accepting_iff, running_eq_false_iff]
  · exact exec_decodeCommand_refused w (accepting_eq_false_of_busy hbusy)
  · simp only [List.mem_cons, List.not_mem_nil, or_false] at hi
    obtain rfl | rfl | rfl | rfl | rfl | rfl | rfl := hi <;> exact buildRequest_refused _ h

/-- `Q.POP` on an empty queue answers `NONE` and changes nothing (40_queue.md R134). -/
theorem execQPop_empty {s : State} (ha : accepting s = true) (h : s.queue.isEmpty = true) :
    execQPop s = .next (s.answer ⟨.none, 0#16⟩) := by
  rw [execQPop, request_accepted _ ha, pop_empty h, toOutcome_ok]

/-- The code beside `FAIL`, zero-extended, is the outcome's number (60_exceptions.md R300). -/
theorem code_setWidth (o : ExchangeOutcome) : o.code.setWidth 16 = outcomeNumber o := by
  cases o <;> rfl

/-- Settles O60: the answer of an empty pop, of a refusal, and of an outcome raised. -/
theorem answerValueChoices : Obligations.AnswerValueChoices := by
  refine ⟨fun s ha hfull hmeet => ?_, fun s w h => ⟨decodeCommand w, rfl, command_refused h⟩, fun o s => ?_⟩
  · exact execQPop_empty ha (by simp [QueueState.isEmpty, hfull, hmeet])
  · rw [← code_setWidth o]; rfl

end Sys2Proof.Machine
end

section
/-! The Byte Queue as the list of its contents (40_queue.md R131 to R139): what each operation does to the list, the
requests, and the events that fill the queue. -/

namespace Sys2Proof.Machine

/-! ## The indices -/

section
variable {cap : Nat} {q : QueueState}

/-- Two unread bytes never share a slot. -/
theorem slot_injective {tail i j : Nat} (hi : i < cap) (hj : j < cap) (h : (tail + i) % cap = (tail + j) % cap) :
    i = j :=
  Nat.ModEq.eq_of_lt_of_lt (Nat.ModEq.add_left_cancel' tail h) hi hj

/-- A legal queue counts `QCAP` unread bytes just where `QFULL` is set (R24). -/
theorem QueueLegal.full_iff (h : QueueLegal cap q) : q.full = true ↔ q.avail cap = cap := by
  have hpos := h.cap_pos
  cases hf : q.full
  · have := Nat.mod_lt (q.head + cap - q.tail) hpos
    simp only [QueueState.avail, hf, Bool.false_eq_true, if_false, false_iff]
    omega
  · simp [QueueState.avail, hf]

/-- Nothing is unread just where the queue is empty (R24, R133). -/
theorem QueueLegal.isEmpty_iff_avail (h : QueueLegal cap q) : q.isEmpty = true ↔ q.avail cap = 0 := by
  obtain ⟨hpos, hhead, htail, -⟩ := id h
  rw [QueueState.isEmpty_iff, h.avail_eq]
  cases q.full
  · simp only [Bool.false_eq_true, if_false, true_and]
    split_ifs <;> omega
  · simp only [Bool.true_eq_false, if_true, false_and, false_iff]
    omega

end

/-! ## The operations on the list of the contents -/

/-- The state without its oldest unread byte (R133). -/
def dropOldest (s : State) : State :=
  { s with queue := { s.queue with tail := (s.queue.tail + 1) % s.params.qcap, full := false } }

section
variable {s : State} {bytes rest : List Byte} {v : Byte}

theorem Queued.length_eq (h : Queued s bytes) : bytes.length = s.queue.avail s.params.qcap := h.holds.count.symm

theorem Queued.length_le (h : Queued s bytes) : bytes.length ≤ s.params.qcap := h.length_eq.trans_le h.legal.avail_le

theorem Queued.full_iff (h : Queued s bytes) : s.queue.full = true ↔ bytes.length = s.params.qcap := by
  rw [h.legal.full_iff, h.length_eq]

theorem Queued.isEmpty_iff (h : Queued s bytes) : s.queue.isEmpty = true ↔ bytes = [] := by
  rw [h.legal.isEmpty_iff_avail, ← h.length_eq, List.length_eq_zero_iff]

/-- The slot after the last unread byte is the one the next push writes. -/
theorem Queued.slot_length (h : Queued s bytes) : (s.queue.tail + bytes.length) % s.params.qcap = s.queue.head := by
  rw [h.length_eq, h.legal.slot_avail]

/-- The contents are read from the queue and `QCAP` alone. -/
theorem Queued.congr {t : State} (h : Queued s bytes) (hq : t.queue = s.queue) (hp : t.params = s.params) :
    Queued t bytes := by
  constructor <;> rw [hq, hp]
  · exact h.legal
  · exact h.holds

/-- `Q.CLEAR` (R136). -/
theorem queued_clearQueue (hcap : 0 < s.params.qcap) : Queued (clearQueue s) [] where
  legal := ⟨hcap, hcap, hcap, nofun⟩
  holds := ⟨by simp [QueueState.avail], nofun⟩

/-- `Q.POP` on a queue that is not empty answers the oldest byte and removes it (R133). -/
theorem Queued.pop_eq (h : Queued s (v :: rest)) : pop s = .ok (some v, dropOldest s) := by
  have hne : s.queue.isEmpty = false := by simp [Bool.eq_false_iff, h.isEmpty_iff]
  have hslot := h.holds.slots 0 (Nat.succ_pos _)
  rw [Nat.add_zero, Nat.mod_eq_of_lt h.legal.tail_lt] at hslot
  exact pop_some hne hslot

theorem Queued.dropOldest (h : Queued s (v :: rest)) : Queued (dropOldest s) rest := by
  obtain ⟨hpos, hhead, htail, hfull⟩ := id h.legal
  have legal : QueueLegal s.params.qcap (Machine.dropOldest s).queue := ⟨hpos, hhead, Nat.mod_lt _ hpos, nofun⟩
  refine ⟨legal, ?count, fun i hi => ?slots⟩
  case count =>
    have hcount := h.length_eq
    rw [h.legal.avail_eq, List.length_cons] at hcount
    show (Machine.dropOldest s).queue.avail s.params.qcap = _
    rw [legal.avail_eq]
    simp only [Machine.dropOldest, mod_cap (show s.queue.tail + 1 < 2 * s.params.qcap by omega)]
    split_ifs at hcount ⊢ <;> simp_all <;> omega
  case slots =>
    show s.queue.buf.read (((s.queue.tail + 1) % s.params.qcap + i) % s.params.qcap) = _
    rw [Nat.mod_add_mod, Nat.add_assoc, Nat.add_comm 1 i, h.holds.slots (i + 1) (Nat.succ_lt_succ hi),
      List.getElem?_cons_succ]

/-- A push into a queue with room joins its byte to the end (R131). -/
theorem Queued.push_room (h : Queued s bytes) (hroom : bytes.length < s.params.qcap) (b : Byte) :
    Queued (push b s) (bytes ++ [b]) := by
  obtain ⟨hpos, hhead, htail, -⟩ := id h.legal
  have hf : s.queue.full = false := by rw [Bool.eq_false_iff, Ne, h.full_iff]; omega
  have hqueue : (push b s).queue = ⟨s.queue.buf.write s.queue.head b, (s.queue.head + 1) % s.params.qcap,
      s.queue.tail, (s.queue.head + 1) % s.params.qcap == s.queue.tail⟩ := by simp [push, hf]
  have legal : QueueLegal s.params.qcap (push b s).queue := by
    rw [hqueue]; exact ⟨hpos, Nat.mod_lt _ hpos, htail, eq_of_beq⟩
  refine ⟨legal, ?count, fun i hi => ?slots⟩
  case count =>
    have hcount := h.length_eq
    rw [h.legal.avail_eq, hf] at hcount
    rw [push_params, legal.avail_eq, hqueue, List.length_append, List.length_singleton]
    simp only [mod_cap (show s.queue.head + 1 < 2 * s.params.qcap by omega), beq_iff_eq]
    split_ifs at hcount ⊢ <;> simp_all <;> omega
  case slots =>
    rw [push_params, hqueue, Memory.read_write, ← h.slot_length]
    rw [List.length_append, List.length_singleton] at hi
    obtain hold | rfl : i < bytes.length ∨ i = bytes.length := by omega
    · rw [if_neg fun hslot => hold.ne (slot_injective (hold.trans hroom) hroom hslot), h.holds.slots i hold,
        List.getElem?_append_left hold]
    · rw [if_pos rfl, List.getElem?_concat_length]

/-- A push into a full queue is a push after the oldest byte has left (R132). -/
theorem push_eq_push_dropOldest (hf : s.queue.full = true) (b : Byte) : push b s = push b (dropOldest s) := by
  simp [push, dropOldest, hf]

/-- A push into a full queue drops the oldest byte and leaves the queue full (R132). -/
theorem Queued.push_full (h : Queued s (v :: rest)) (hf : s.queue.full = true) (b : Byte) :
    Queued (push b s) (rest ++ [b]) ∧ (push b s).queue.full = true := by
  have hlen := h.full_iff.mp hf
  rw [List.length_cons] at hlen
  have pushed : Queued (push b s) (rest ++ [b]) := by
    rw [push_eq_push_dropOldest hf]
    exact h.dropOldest.push_room (show rest.length < s.params.qcap by omega) b
  refine ⟨pushed, pushed.full_iff.mpr ?_⟩
  rw [List.length_append, List.length_singleton, hlen, push_params]

/-- A push is the abstract push (R132, R139). -/
theorem Queued.push (h : Queued s bytes) (b : Byte) : Queued (push b s) (abstractPush s.params.qcap bytes b) := by
  rw [abstractPush]
  split
  · next hroom => exact h.push_room hroom b
  · next hroom =>
    have hfull : bytes.length = s.params.qcap := by have := h.length_le; omega
    cases bytes with
    | nil => exact absurd (hfull ▸ h.legal.cap_pos) (lt_irrefl 0)
    | cons v rest => exact (h.push_full (h.full_iff.mpr hfull) b).1

theorem Queued.receiveEvent (h : Queued s bytes) (b : Byte) :
    Queued (receiveEvent b s) (abstractPush s.params.qcap bytes b) := (h.push b).congr rfl rfl

end

/-- Settles O14: the push by `Queued.push`, the pop by `Queued.pop_eq` and `Queued.dropOldest`. -/
theorem queueRefinesList : Obligations.QueueRefinesList := by
  intro s bytes h
  refine ⟨h.push, fun hnil => pop_empty (h.isEmpty_iff.mpr hnil), ?_, h.holds.count, h.length_le,
    queued_clearQueue h.legal.cap_pos⟩
  rintro v rest rfl
  exact ⟨dropOldest s, h.pop_eq, h.dropOldest⟩

/-- Settles O12, by what a push writes. -/
theorem receivedByteIsPushed : Obligations.ReceivedByteIsPushed := fun s b =>
  ⟨receiveEvent b s, rfl, rfl, fun a => Memory.read_write s.queue.buf s.queue.head a b, rfl, rfl, rfl⟩

/-! ## The requests -/

/-- `Q.POP` on a queue with an unread byte answers the byte at the tail (R133). -/
theorem execQPop_byte {s : State} {v : Byte} (ha : accepting s = true) (hne : s.queue.isEmpty = false)
    (hv : s.queue.buf.read s.queue.tail = some v) :
    execQPop s = .next (finish (v.setWidth 16) (dropOldest s)) := by
  rw [execQPop, request_accepted _ ha, pop_some hne hv, toOutcome_ok, dropOldest]

/-- Without an operation in progress an answer with `OK` is all that ends it. -/
theorem finish_of_idle {s : State} (v : Half) (ht : s.task = .idle) :
    finish v s = { s with results := s.results ++ [⟨.ok, v⟩] } := by
  rw [finish, ← ht]

/-- Settles O16: an empty queue by `execQPop_empty`, any other by `execQPop_byte`. -/
theorem popRequest : Obligations.PopRequest := by
  intro s ha
  have hidle := ((accepting_iff s).mp ha).2
  refine ⟨fun hfull hmeet => ⟨0#16, execQPop_empty ha (QueueState.isEmpty_iff.mpr ⟨hfull, hmeet⟩)⟩,
    fun v hunread hv => ?_⟩
  have hne : s.queue.isEmpty = false := by
    rw [Bool.eq_false_iff, Ne, QueueState.isEmpty_iff, not_and_or, Bool.not_eq_false]
    exact hunread
  have hpop := execQPop_byte ha hne hv
  rw [finish_of_idle (s := dropOldest s) _ hidle] at hpop
  exact hpop

theorem execQClear_accepted {s : State} (ha : accepting s = true) :
    execQClear s = .next (finish 0#16 (clearQueue s)) := by
  rw [execQClear, request_accepted _ ha, toOutcome_ok]

theorem execQAvail_accepted {s : State} (ha : accepting s = true) :
    execQAvail s = .next (finish (BitVec.ofNat 16 (avail s)) s) := by
  rw [execQAvail, request_accepted _ ha, toOutcome_ok]

/-- Settles O17: each request answers in one transition, and no operation was in progress before. -/
theorem availAndClearRequests : Obligations.AvailAndClearRequests := by
  intro s ha
  have hidle := ((accepting_iff s).mp ha).2
  have havail := execQAvail_accepted ha
  have hclear := execQClear_accepted ha
  rw [finish_of_idle _ hidle] at havail
  rw [finish_of_idle (s := clearQueue s) _ hidle] at hclear
  exact ⟨havail, hclear⟩

/-! ## Runs on given instructions -/

theorem runOn_nil (s : State) : runOn [] s = .next { s with inputs := [] } := rfl

/-- A run whose first input is an instruction goes on from the state that the instruction leaves. -/
theorem runOn_given {s t : State} {i : Instr} {rest : List Input} (hwf : i.wf = true)
    (he : exec i { s with inputs := rest } = .next { t with inputs := rest }) :
    runOn (given i :: rest) s = runOn rest t := by
  have hstep : step { s with inputs := given i :: rest } = .next { t with inputs := rest } :=
    (step_packet rfl (encodeThenDecode i hwf)).trans he
  simp only [runOn, List.length_cons, Host.Core.run, core, hstep]

theorem runOn_evRx (s : State) (b : Byte) (rest : List Input) :
    runOn (given (.evRx b) :: rest) s = runOn rest (receiveEvent b s) := runOn_given rfl rfl

theorem runOn_qClear {s : State} (ha : accepting s = true) (rest : List Input) :
    runOn (given .qClear :: rest) s = runOn rest (finish 0#16 (clearQueue s)) :=
  runOn_given rfl (execQClear_accepted (s := { s with inputs := rest }) ha)

/-- Bytes that arrive one after the other are pushed one after the other (R131, R261). -/
theorem runOn_arrivals {s : State} {old : List Byte} (bytes : List Byte) (h : Queued s old) :
    ∃ t, runOn (arrivals bytes) s = .next t ∧ Queued t (bytes.foldl (abstractPush s.params.qcap) old) ∧
      t = { s with queue := t.queue, inputs := [],
                   outputs := s.outputs ++ List.replicate bytes.length .clearOverrunFlag } := by
  induction bytes generalizing s old with
  | nil => exact ⟨_, runOn_nil s, h.congr rfl rfl, by simp⟩
  | cons b rest ih =>
    obtain ⟨t, hrun, hq, ht⟩ := ih (h.receiveEvent b)
    refine ⟨t, (runOn_evRx s b _).trans hrun, hq, ht.trans ?_⟩
    simp [receiveEvent, push, State.emit, List.replicate_succ]

/-- Abstract pushes keep the last `cap` bytes of all that were ever in the list (R132). -/
theorem foldl_abstractPush {cap : Nat} (hcap : 0 < cap) (bytes : List Byte) {old : List Byte} (h : old.length ≤ cap) :
    bytes.foldl (abstractPush cap) old = (old ++ bytes).drop (old.length + bytes.length - cap) := by
  induction bytes generalizing old with
  | nil => simp [Nat.sub_eq_zero_of_le h]
  | cons b rest ih =>
    rw [List.foldl_cons, abstractPush]
    split
    · next hroom =>
      rw [ih (by simpa using hroom)]
      simp [Nat.add_assoc, Nat.add_comm 1]
    · next hfull =>
      cases old with
      | nil => exact absurd hcap hfull
      | cons v more =>
        have hlen : more.length + 1 = cap := by simp only [List.length_cons] at h hfull; omega
        have hdropped : (v :: more).length + (b :: rest).length - cap = rest.length + 1 := by
          simp only [List.length_cons]; omega
        have hkept : (more ++ [b]).length + rest.length - cap = rest.length := by
          simp only [List.length_append, List.length_singleton]; omega
        rw [List.tail_cons, ih (by simp [hlen]), hkept, hdropped]
        simp

/-- Settles O15: the single push by `Queued.push_full`, the run by induction over the bytes that arrive. -/
theorem queueOverflowKeepsNewest : Obligations.QueueOverflowKeepsNewest := by
  refine ⟨fun s oldest b rest h hf => ?_, fun s bytes h => ?_⟩
  · obtain ⟨pushed, hfull⟩ := h.push_full hf b
    refine ⟨receiveEvent b s, rfl, pushed.congr rfl rfl, hfull, ?_, rfl⟩
    rw [← h.legal.full_eq hf]
    exact Memory.read_write_same _ _ _
  · obtain ⟨t, hrun, hq, ht⟩ := runOn_arrivals bytes h
    rw [foldl_abstractPush h.legal.cap_pos bytes (Nat.zero_le _)] at hq
    exact ⟨t, hrun, by simpa using hq, ht⟩

/-- Settles O18: each order as a run of its two instructions. -/
theorem clearPushRace : Obligations.ClearPushRace := by
  intro s bytes b ha h
  have cleared : Queued (finish 0#16 (clearQueue s)) [] := (queued_clearQueue h.legal.cap_pos).congr rfl rfl
  constructor
  · have hrun := (runOn_evRx s b [given .qClear]).trans (runOn_qClear (s := receiveEvent b s) ha [])
    exact ⟨_, hrun.trans (runOn_nil _), (queued_clearQueue (s := receiveEvent b s) h.legal.cap_pos).congr rfl rfl⟩
  · have hrun := (runOn_qClear ha [given (.evRx b)]).trans (runOn_evRx _ b [])
    exact ⟨_, hrun.trans (runOn_nil _), (cleared.push_room h.legal.cap_pos b).congr rfl rfl⟩

end Sys2Proof.Machine
end

section
/-! From a legal state no operation meets a byte that nothing has written (20_memory.md R61, 40_queue.md R138,
70_reset_and_hazards.md R341; entry 7), so every step on an instruction completes. -/

namespace Sys2Proof.Machine

/-- The operation meets no unwritten byte. -/
def NoFault (r : Except Fault State) : Prop := ∀ f, r ≠ .error f

theorem noFault_ok (t : State) : NoFault (.ok t) := nofun

theorem NoFault.completes {r : Except Fault State} (h : NoFault r) : ∃ t, toOutcome r = .next t := by
  cases r with
  | ok t => exact ⟨t, toOutcome_ok t⟩
  | error f => exact absurd rfl (h f)

section
variable {s : State}

/-! ## Receives -/

/-- The slot at the tail was written where a byte is unread (R24, R138). -/
theorem QueueSound.oldest_written {cap : Nat} {q : QueueState} (h : QueueSound cap q) (hne : q.isEmpty = false) :
    q.buf.read q.tail ≠ none := by
  have hunread : 0 < q.avail cap := by
    rw [Nat.pos_iff_ne_zero, Ne, ← h.legal.isEmpty_iff_avail, hne]
    exact Bool.false_ne_true
  have hslot := h.unread 0 hunread
  rw [Nat.add_zero, Nat.mod_eq_of_lt h.legal.tail_lt] at hslot
  exact Option.isSome_iff_ne_none.mp hslot

theorem pop_noFault (h : QueueSound s.params.qcap s.queue) (f : Fault) : pop s ≠ .error f := fun hp =>
  have ⟨hne, hnone, _⟩ := pop_fault hp
  h.oldest_written hne hnone

/-- A poll of a receive meets no unwritten byte where the use of the byte received meets none. -/
theorem pollQueue_noFault {onByte : Byte → State → Except Fault State} (h : QueueSound s.params.qcap s.queue)
    (use : s.queue.isEmpty = false → ∀ v, NoFault (onByte v (dropOldest s))) : NoFault (pollQueue s onByte) := by
  intro f hp
  rcases pollQueue_fault hp with ⟨hne, hnone⟩ | ⟨v, hne, -, hv⟩
  · exact h.oldest_written hne hnone
  · exact use hne v f hv

/-- The echo verifier reads inside the frame (45_transport_exchange.md R275): a frame that was built has two bytes. -/
theorem echoByte_noFault {b : Byte} (h : BlockLegal s) (ht : s.task = .echo) : NoFault (echoByte b s) := by
  obtain ⟨-, -, hi⟩ := (operationLegal_echo ht).mp h.operation
  have hlen : 6 ≤ s.builder.txlen.toNat := by
    rcases h.txlen with h0 | ⟨h6, -⟩
    · rw [h0] at hi; exact absurd hi (Nat.not_lt_zero _)
    · exact h6
  have written : ∀ i, i < s.builder.txlen.toNat → s.builder.txbuf.read i ≠ none := fun i hlt =>
    Option.isSome_iff_ne_none.mp (h.built i hlt)
  intro f hb
  rcases echoByte_fault hb with h0 | ⟨-, h1⟩ | hk
  · exact written 0 (by omega) h0
  · exact written 1 (by omega) h1
  · exact written _ hi hk

theorem echoPoll_noFault (h : BlockLegal s) (ht : s.task = .echo) : NoFault (pollQueue s echoByte) :=
  pollQueue_noFault h.data.queue fun hne _ =>
    have rest : BlockLegal (dropOldest s) := h.setQueue (h.data.queue.pop hne)
    echoByte_noFault rest ht

/-- A poll of phase B reads inside the frame (R264). -/
theorem sendBytePoll_noFault {ready : Option Bool} (h : BlockLegal s) (ht : s.task = .sendByte) :
    NoFault (sendBytePoll ready s) := fun _ hs =>
  have ⟨_, _, hi⟩ := (operationLegal_sendByte ht).mp h.operation
  Option.isSome_iff_ne_none.mp (h.built _ hi) (sendBytePoll_fault hs)

/-! ## The dispatch -/

/-- A decode that begins with a payload read of a received frame goes on with the frame received. -/
theorem readPayload_bind_noFault {i : Nat} {next : Byte × State → Except Fault State}
    (h : Received s.parser s.parser.rxlen.toNat)
    (hnext : ∀ v u, Received u.parser u.parser.rxlen.toNat → NoFault (next (v, u))) :
    NoFault (readPayload i s >>= next) := by
  obtain ⟨v, n, hread, -⟩ := readPayload_ok (i := i) h
  rw [hread]
  exact hnext v _ h

section
variable (h : Received s.parser s.parser.rxlen.toNat)
include h

theorem decodeGetSettings_noFault (ver : BitVec 2) : NoFault (decodeGetSettings ver s) :=
  readPayload_bind_noFault h fun _ _ h5 =>
  readPayload_bind_noFault h5 fun _ _ h0 =>
  readPayload_bind_noFault h0 fun _ _ h1 =>
  readPayload_bind_noFault h1 fun _ _ h2 =>
  readPayload_bind_noFault h2 fun _ _ h3 =>
  readPayload_bind_noFault h3 fun _ _ _ => noFault_ok _

theorem decodeSetFrequency_noFault : NoFault (decodeSetFrequency s) :=
  readPayload_bind_noFault h fun _ _ h0 => readPayload_bind_noFault h0 fun _ _ _ => noFault_ok _

theorem decodeSetChannel_noFault : NoFault (decodeSetChannel s) :=
  readPayload_bind_noFault h fun _ _ _ => noFault_ok _

theorem decodeSetPower_noFault : NoFault (decodeSetPower s) :=
  readPayload_bind_noFault h fun _ _ h0a =>
  readPayload_bind_noFault h0a fun _ _ h0b =>
  readPayload_bind_noFault h0b fun _ _ h1a =>
  readPayload_bind_noFault h1a fun _ _ h1b =>
  readPayload_bind_noFault h1b fun _ _ _ => noFault_ok _

theorem decodeSetMode_noFault : NoFault (decodeSetMode s) :=
  readPayload_bind_noFault h fun _ _ _ => noFault_ok _

/-- Whichever id a response has, its decode reads only bytes received (43_frame_parser.md R186, R197). -/
theorem dispatch_noFault : NoFault (dispatch s) := by
  simp only [dispatch]
  split_ifs
  · exact decodeGetSettings_noFault h _
  · exact decodeGetSettings_noFault h _
  · exact decodeGetSettings_noFault h _
  · exact decodeSetFrequency_noFault h
  · exact decodeSetChannel_noFault h
  · exact decodeSetPower_noFault h
  · exact decodeSetMode_noFault h
  · exact noFault_ok _

end

/-! ## The micro-steps -/

theorem microStep_noFault (ready : Option Bool) (h : BlockLegal s) : NoFault (microStep ready s) := by
  match ht : s.task with
  | .idle => rw [microStep_idle ready ht]; exact noFault_ok _
  | .clearQueue => rw [microStep_clearQueue ready ht]; exact noFault_ok _
  | .stepBaud => rw [microStep_stepBaud ready ht]; exact noFault_ok _
  | .countSent => rw [microStep_countSent ready ht]; exact noFault_ok _
  | .sendWait => rw [microStep_sendWait ready ht]; exact noFault_ok _
  | .sendByte => rw [microStep_sendByte ready ht]; exact sendBytePoll_noFault h ht
  | .recv => rw [microStep_recv ready ht]; exact pollQueue_noFault h.data.queue fun _ _ => noFault_ok _
  | .expect v => rw [microStep_expect ready ht]; exact pollQueue_noFault h.data.queue fun _ _ => noFault_ok _
  | .echo => rw [microStep_echo ready ht]; exact echoPoll_noFault h ht
  | .parse => rw [microStep_parse ready ht]; exact pollQueue_noFault h.data.queue fun _ _ => noFault_ok _
  | .dispatch =>
    obtain ⟨-, -, hr⟩ := (operationLegal_dispatch ht).mp h.operation
    rw [microStep_dispatch ready ht]
    exact dispatch_noFault hr

/-! ## The instructions -/

/-- A request completes where its operation, if it is accepted, meets no unwritten byte. -/
theorem request_completes {body : State → Except Fault State} (h : accepting s = true → NoFault (body s)) :
    ∃ t, request s body = .next t := by
  cases ha : accepting s
  · exact ⟨_, request_refused body ha⟩
  · rw [request_accepted body ha]
    exact (h ha).completes

theorem execQPop_completes (h : BlockLegal s) : ∃ t, execQPop s = .next t := by
  refine request_completes fun _ => ?_
  split
  · next hp => exact absurd hp (pop_noFault h.data.queue _)
  · exact noFault_ok _
  · exact noFault_ok _

/-- A build reads only the payload that was loaded (42_frame_builder.md R166). -/
theorem buildFrame_noFault {cmd : Byte} (h : BuilderSound s.builder) : NoFault (buildFrame cmd s) := by
  intro f hb
  refine Option.isSome_iff_ne_none.mp ((Memory.readRange_isSome _ _ _).mpr fun k hk => ?_) (buildFrame_fault hb)
  rw [Nat.zero_add]
  exact h.loaded k hk

theorem finishBuild_noFault {r : Except Fault State} (h : NoFault r) : NoFault (finishBuild r) := by
  cases r with
  | ok t => exact noFault_ok _
  | error f => exact absurd rfl (h f)

theorem execFbBuild_completes (cmd : Byte) (h : BlockLegal s) : ∃ t, execFbBuild cmd s = .next t :=
  request_completes fun _ => finishBuild_noFault (buildFrame_noFault h.data.builder)

theorem buildRequest_completes (cmd : Byte) (payload : List Byte) (h : BlockLegal s) :
    ∃ t, buildRequest cmd payload s = .next t := by
  refine request_completes fun _ => ?_
  split
  · next hlen => exact finishBuild_noFault (buildFrame_noFault (loadPayload_sound h.data.builder hlen))
  · exact noFault_ok _

theorem execTSend_completes (s : State) : ∃ t, execTSend s = .next t := by
  refine request_completes fun _ => ?_
  split <;> exact noFault_ok _

theorem execTRecv_completes (h : BlockLegal s) : ∃ t, execTRecv s = .next t :=
  have begun : QueueSound (loadRxTimeout s).params.qcap (loadRxTimeout s).queue := h.data.queue
  request_completes fun _ => pollQueue_noFault begun fun _ _ => noFault_ok _

theorem execTExpect_completes (v : Byte) (h : BlockLegal s) : ∃ t, execTExpect v s = .next t :=
  have begun : QueueSound (loadRxTimeout s).params.qcap (loadRxTimeout s).queue := h.data.queue
  request_completes fun _ => pollQueue_noFault begun fun _ _ => noFault_ok _

theorem execFpParse_completes (h : BlockLegal s) : ∃ t, execFpParse s = .next t :=
  request_completes fun ha =>
    pollQueue_noFault (startParse_accepted_legal h ha).data.queue fun _ _ => noFault_ok _

theorem execXEcho_completes (h : BlockLegal s) : ∃ t, execXEcho s = .next t := by
  refine request_completes fun ha => ?_
  obtain ⟨hd, -, hp, hx⟩ := h.accepted ha
  split
  · exact noFault_ok _
  · next hn => exact echoPoll_noFault (startEcho_legal hd hp (.of_stopped hx) (txlen_pos hn)) rfl

theorem execXCmd_completes (cmd : Byte) (h : BlockLegal s) : ∃ t, execXCmd cmd s = .next t :=
  request_completes fun _ => buildFrame_noFault h.data.builder

/-- A frame's arrivals, its start of a parse and its micro-steps all keep the block legal (entry 12), so none of them
meets an unwritten byte. -/
theorem receiveFrame_completes (frame : List Byte) (h : BlockLegal s) :
    ∃ t, toOutcome (receiveFrame frame s) = .next t := by
  have begun : BlockLegal (if accepting s then startParse s else s) := by
    split
    · next ha => exact startParse_accepted_legal h ha
    · exact h
  have arrives : ∀ b u, BlockLegal u → BlockLegal (receiveEvent b u) := fun b _ hu => receiveEvent_legal hu b
  have moves : ∀ u t, BlockLegal u → microStep none u = .ok t → BlockLegal t := fun _ _ => microStep_legal
  refine NoFault.completes ?_
  rw [receiveFrame]
  split
  · next hfeed =>
    exact absurd hfeed (feed_no_fault arrives moves (fun _ f hu => microStep_noFault none hu f) begun _)
  · next hfeed =>
    split
    · exact microStep_noFault none (feed_keeps arrives moves begun hfeed)
    · exact noFault_ok _

theorem exec_completes (i : Instr) (h : BlockLegal s) : ∃ t, exec i s = .next t := by
  cases i with
  | qPop => exact execQPop_completes h
  | qAvail | qClear | crcInit | crcUpd b | brStep | brReconf =>
    simp only [exec, execQAvail, execQClear, execCrcInit, execCrcUpd, execBrStep, execBrReconf]
    exact request_completes fun _ => noFault_ok _
  | fbBuild cmd => exact execFbBuild_completes cmd h
  | tSend => exact execTSend_completes s
  | tRecv => exact execTRecv_completes h
  | tExpect v => exact execTExpect_completes v h
  | xEcho => exact execXEcho_completes h
  | fpParse => exact execFpParse_completes h
  | xCmd cmd => exact execXCmd_completes cmd h
  | reserved0 | reservedF | evRx b | evTxc => exact ⟨_, rfl⟩
  | reqGetSettings p | reqSetPower p | reqSetChannel p | reqSetFrequency p | reqSetMode p | reqGetSettingsV2 p
  | reqGetSettingsV21 p => exact buildRequest_completes _ p h
  | rspGetSettings p | rspGetSettingsV2 p => exact receiveFrame_completes _ h
  | rspSetPower p crc | rspSetChannel p crc | rspSetFrequency p crc | rspSetMode p crc | rspGetSettingsV21 p crc =>
    exact receiveFrame_completes _ h
  | rspUnknown rcmd p crc => exact receiveFrame_completes _ h

end

/-- Settles O58: every kind of input completes but a packet that does not decode. -/
theorem legalStepCompletes : Obligations.LegalStepCompletes := by
  intro s h
  have taken : ∀ rest, BlockLegal { s with inputs := rest } := fun _ => { h with }
  match hin : s.inputs with
  | [] => rw [step_no_input hin]; exact .inl (microStep_noFault none h).completes
  | .packet p :: rest =>
    match hd : decode p with
    | .ok i => rw [step_packet hin hd]; exact .inl (exec_completes i (taken rest))
    | .error e => exact .inr ⟨p, rest, e, rfl, hd, step_bad_packet hin hd⟩
  | .load payload :: rest => exact .inl ⟨_, step_load hin⟩
  | .read sels :: rest => exact .inl ⟨_, step_read hin⟩
  | .poll ready :: rest => rw [step_poll hin]; exact .inl (microStep_noFault (some ready) (taken rest)).completes

end Sys2Proof.Machine
end

section
/-! The CRC-8 (41_crc.md R151 to R155). A shift is linear over exclusive-or and loses nothing, as the polynomial is odd;
the laws of `crc8_step` and the equality of its two loops follow from that. -/

namespace Sys2Proof.Machine

/-! ## One shift -/

/-- What a shift folds in for the bit it shifts out, tied to the model by `crc8Shift_eq`. -/
def foldedIn (out : Bool) : Byte := if out then Config.crcPoly else 0#8

theorem foldedIn_xor (p q : Bool) : foldedIn (p ^^ q) = foldedIn p ^^^ foldedIn q := by
  cases p <;> cases q <;> rfl

theorem xor_foldedIn (v : Byte) (out : Bool) : v ^^^ foldedIn out = if out then v ^^^ Config.crcPoly else v := by
  cases out with
  | false => exact BitVec.xor_zero
  | true => rfl

theorem crc8Shift_eq (v : Byte) : crc8Shift v = v <<< 1 ^^^ foldedIn (v.getLsbD 7) := (xor_foldedIn ..).symm

theorem crc8Bit_eq (b c : Byte) (i : Nat) : crc8Bit b c i = c <<< 1 ^^^ foldedIn (c.getLsbD 7 ^^ b.getLsbD i) :=
  (xor_foldedIn ..).symm

theorem crc8Shift_xor (v w : Byte) : crc8Shift (v ^^^ w) = crc8Shift v ^^^ crc8Shift w := by
  rw [crc8Shift_eq, crc8Shift_eq, crc8Shift_eq, BitVec.getLsbD_xor, foldedIn_xor, BitVec.shiftLeft_xor_distrib]
  ac_rfl

/-- The polynomial is odd, so the bit shifted out comes back as bit 0. -/
theorem getLsbD_zero_crc8Shift (v : Byte) : (crc8Shift v).getLsbD 0 = v.getLsbD 7 := by
  rw [crc8Shift_eq, BitVec.getLsbD_xor, BitVec.getLsbD_shiftLeft]
  cases v.getLsbD 7 <;> rfl

theorem eq_zero_of_crc8Shift_eq_zero {v : Byte} (h : crc8Shift v = 0#8) : v = 0#8 := by
  have hout : v.getLsbD 7 = false := by rw [← getLsbD_zero_crc8Shift, h, BitVec.getLsbD_zero]
  have hsmall : 2 * v.toNat < 2 ^ 8 := BitVec.msb_eq_false_iff_two_mul_lt.mp (BitVec.msb_eq_getLsbD_last v ▸ hout)
  have hshift : v <<< 1 = 0#8 := by rwa [crc8Shift, hout, if_neg Bool.false_ne_true] at h
  bv_omega

theorem crc8Shift_injective : Function.Injective crc8Shift := fun v w h =>
  BitVec.xor_eq_zero_iff.mp (eq_zero_of_crc8Shift_eq_zero (by rw [crc8Shift_xor, h, BitVec.xor_self]))

/-! ## Several shifts -/

theorem crc8Shifts_eq_iterate (n : Nat) (v : Byte) : crc8Shifts n v = crc8Shift^[n] v := by
  induction n generalizing v with
  | zero => rfl
  | succ n ih => exact ih (crc8Shift v)

theorem crc8Shifts_xor (n : Nat) (v w : Byte) : crc8Shifts n (v ^^^ w) = crc8Shifts n v ^^^ crc8Shifts n w := by
  induction n generalizing v w with
  | zero => rfl
  | succ n ih => rw [crc8Shifts, crc8Shift_xor, ih, crc8Shifts, crc8Shifts]

@[simp] theorem crc8Shifts_zero_byte (n : Nat) : crc8Shifts n 0#8 = 0#8 := by
  simpa using crc8Shifts_xor n 0#8 0#8

theorem crc8Shifts_injective (n : Nat) : Function.Injective (crc8Shifts n) := by
  rw [funext (crc8Shifts_eq_iterate n)]
  exact crc8Shift_injective.iterate n

/-! ## The bit-at-a-time form -/

/-- With the bits of `b` that are still to come aligned under the register, the serial form's next bit is a shift. -/
theorem crc8Shift_aligned (c b : Byte) {n : Nat} (hn : n < 8) :
    crc8Shift (c ^^^ b <<< (7 - n)) = crc8Bit b c n ^^^ b <<< (8 - n) := by
  have hbit : (b <<< (7 - n)).getLsbD 7 = b.getLsbD n := by
    rw [BitVec.getLsbD_shiftLeft, Nat.sub_sub_self (Nat.le_of_lt_succ hn)]
    simp
  have hnext : b <<< (7 - n) <<< 1 = b <<< (8 - n) := by
    rw [← BitVec.shiftLeft_add, ← Nat.sub_add_comm (Nat.le_of_lt_succ hn)]
  rw [crc8Shift_eq, crc8Bit_eq, BitVec.getLsbD_xor, BitVec.shiftLeft_xor_distrib, hbit, hnext,
    BitVec.xor_assoc, BitVec.xor_comm (b <<< (8 - n)), ← BitVec.xor_assoc]

/-- The last `n` rounds of the serial form, which fold in bits `n - 1` down to 0 of `b`. -/
theorem foldl_crc8Bit (b c : Byte) {n : Nat} (hn : n ≤ 8) :
    (List.range n).reverse.foldl (crc8Bit b) c = crc8Shifts n (c ^^^ b <<< (8 - n)) := by
  induction n generalizing c with
  | zero => simp [crc8Shifts]
  | succ n ih =>
    calc (List.range (n + 1)).reverse.foldl (crc8Bit b) c
      _ = (List.range n).reverse.foldl (crc8Bit b) (crc8Bit b c n) := by simp [List.range_succ]
      _ = crc8Shifts n (crc8Bit b c n ^^^ b <<< (8 - n)) := ih _ (by omega)
      _ = crc8Shifts n (crc8Shift (c ^^^ b <<< (7 - n))) := by rw [crc8Shift_aligned c b hn]
      _ = crc8Shifts (n + 1) (c ^^^ b <<< (8 - (n + 1))) := by rw [crc8Shifts, Nat.add_sub_add_right 7 1 n]

theorem crc8Step_eq_serial (c b : Byte) : crc8Step c b = crc8Serial c b := by
  have hrounds := foldl_crc8Bit b c (n := 8) le_rfl
  rw [Nat.sub_self, BitVec.shiftLeft_zero] at hrounds
  exact hrounds.symm

/-! ## The step and the range -/

@[simp] theorem crc8Step_self (c : Byte) : crc8Step c c = 0#8 := by rw [crc8Step, BitVec.xor_self, crc8Shifts_zero_byte]

theorem crc8Step_comm (c b : Byte) : crc8Step c b = crc8Step b c := by rw [crc8Step, crc8Step, BitVec.xor_comm]

theorem crc8Step_xor (c1 c2 b1 b2 : Byte) :
    crc8Step (c1 ^^^ c2) (b1 ^^^ b2) = crc8Step c1 b1 ^^^ crc8Step c2 b2 := by
  rw [crc8Step, crc8Step, crc8Step, ← crc8Shifts_xor]
  congr 1
  ac_rfl

theorem crc8Step_bijective_byte (c : Byte) : Function.Bijective (crc8Step c) :=
  Finite.injective_iff_bijective.mp fun _ _ h => (BitVec.xor_right_inj c).mp (crc8Shifts_injective 8 h)

theorem crc8Step_bijective_state (b : Byte) : Function.Bijective fun c => crc8Step c b := by
  rw [funext (crc8Step_comm · b)]
  exact crc8Step_bijective_byte b

theorem crc8Range_append (seed : Byte) (m rest : List Byte) :
    crc8Range seed (m ++ rest) = crc8Range (crc8Range seed m) rest := List.foldl_append

/-- A sequence with its own CRC appended has CRC 0 (R152 (d)): the last step meets its own state. -/
theorem crc8Range_append_self (seed : Byte) (m : List Byte) : crc8Range seed (m ++ [crc8Range seed m]) = 0#8 := by
  rw [crc8Range_append]
  exact crc8Step_self _

/-- Settles O9: the model's loop is the iterate, and the serial form by `crc8Step_eq_serial`. -/
theorem crcStepSerialForm : Obligations.CrcStepSerialForm :=
  ⟨fun c b => crc8Shifts_eq_iterate 8 (c ^^^ b), crc8Step_eq_serial, crc8Step_self, by decide, by decide, by decide,
    by decide, by decide⟩

/-- Settles O10: (a) as shifts lose nothing, (b) as a shift is linear, (c)'s example by evaluation, (d) by
`crc8Range_append_self`. -/
theorem crcStepLaws : Obligations.CrcStepLaws :=
  ⟨crc8Step_bijective_state, crc8Step_bijective_byte, crc8Step_xor, by decide +kernel, by decide +kernel,
    crc8Range_append_self⟩

/-! ## The requests -/

theorem execCrcInit_accepted {s : State} (ha : accepting s = true) :
    execCrcInit s = .next (finish 0#16 { s with crcacc := 0#8 }) := by
  rw [execCrcInit, request_accepted _ ha, toOutcome_ok]
  rfl

theorem execCrcUpd_accepted {s : State} (ha : accepting s = true) (b : Byte) :
    execCrcUpd b s = .next (finish ((crc8Step s.crcacc b).setWidth 16) { s with crcacc := crc8Step s.crcacc b }) := by
  rw [execCrcUpd, request_accepted _ ha, toOutcome_ok]

/-- Settles O11: each request answers in one transition, and no operation was in progress before. -/
theorem crcRequests : Obligations.CrcRequests := by
  intro s b ha
  have hidle := ((accepting_iff s).mp ha).2
  have hinit := execCrcInit_accepted ha
  have hupd := execCrcUpd_accepted ha b
  rw [finish_of_idle (s := { s with crcacc := 0#8 }) _ hidle] at hinit
  rw [finish_of_idle (s := { s with crcacc := crc8Step s.crcacc b }) _ hidle] at hupd
  exact ⟨hinit, hupd⟩

end Sys2Proof.Machine
end

section
/-! The frame builder (42_frame_builder.md R166 to R176): the state after a build, the frame of a command id and a
payload, the request rows, and the frames the spec writes out. -/

namespace Sys2Proof.Machine

/-! ## The frame -/

theorem requestFrame_eq_builtFrame (cmd : Byte) (payload : List Byte) :
    requestFrame cmd payload = builtFrame cmd payload := rfl

theorem requestBody_eq_coveredBytes (cmd : Byte) (payload : List Byte) :
    requestBody cmd payload = coveredBytes cmd payload := rfl

theorem requestCrc_eq (cmd : Byte) (payload : List Byte) :
    requestCrc cmd payload = crc8Range 0x00#8 (coveredBytes cmd payload) :=
  congrArg (crc8Range Config.crcSeed) (requestBody_eq_coveredBytes cmd payload)

theorem builtFrame_length (cmd : Byte) (payload : List Byte) : (builtFrame cmd payload).length = payload.length + 6 :=
  requestFrame_length cmd payload

/-- The command byte's shift drops bit 7 of the id (R91). -/
theorem cmdByte_congr {cmd cmd' : Byte} (h : cmd.toNat % 128 = cmd'.toNat % 128) : cmdByte cmd = cmdByte cmd' := by
  have hshift : cmd <<< 1 = cmd' <<< 1 := BitVec.eq_of_toNat_eq (by simp only [BitVec.toNat_shiftLeft]; omega)
  rw [cmdByte, cmdByte, hshift]

/-- A frame reads its command id through the command byte alone (R90, R93). -/
theorem builtFrame_congr {cmd cmd' : Byte} (payload : List Byte) (h : cmd.toNat % 128 = cmd'.toNat % 128) :
    builtFrame cmd payload = builtFrame cmd' payload := by
  simp only [← requestFrame_eq_builtFrame, requestFrame, requestCrc, requestBody, cmdByte_congr h]

/-- The CRC over a frame after its pad, the CRC byte included, is 0 (R167 (c)). -/
theorem crc8Range_tail_builtFrame (cmd : Byte) (payload : List Byte) :
    crc8Range 0x00#8 (builtFrame cmd payload).tail = 0x00#8 :=
  crc8Range_append_self 0x00#8 (coveredBytes cmd payload)

/-! ## The build -/

section
variable {s t : State} {payload : List Byte}

/-- The state once this frame is written; tied to the model in `PayloadLoaded.buildFrame_eq`. -/
def withFrame (cmd : Byte) (payload : List Byte) (s : State) : State :=
  { s with
    crcacc := requestCrc cmd payload
    builder := { s.builder with
      cmdin := cmd
      txbuf := s.builder.txbuf.writeRange 0 (requestFrame cmd payload)
      txlen := BitVec.ofNat 9 (payload.length + 6) } }

theorem PayloadLoaded.length_le (h : PayloadLoaded s payload) : payload.length ≤ 255 :=
  h.length_eq.trans_le (Nat.le_of_lt_succ s.builder.paylen.isLt)

theorem PayloadLoaded.readRange_eq (h : PayloadLoaded s payload) :
    s.builder.payin.readRange 0 s.builder.paylen.toNat = some payload :=
  (Memory.readRange_eq_some _ _ _ _).mpr ⟨h.length_eq, fun k hk => by
    rw [Nat.zero_add]; exact h.bytes k (h.length_eq.symm ▸ hk)⟩

/-- With a payload loaded a build succeeds (R166). -/
theorem PayloadLoaded.buildFrame_eq (h : PayloadLoaded s payload) (cmd : Byte) :
    buildFrame cmd s = .ok (withFrame cmd payload s) := by
  simp only [buildFrame, h.readRange_eq, withFrame]

theorem frameBuilt_withFrame (cmd : Byte) (s : State) (hlen : payload.length ≤ 255) :
    FrameBuilt cmd payload s (withFrame cmd payload s) where
  txlen := by simp only [withFrame, BitVec.toNat_ofNat]; omega
  txbuf a := by
    simp only [withFrame, Memory.read_writeRange, requestFrame_eq_builtFrame, builtFrame_length, Nat.zero_le, true_and,
      Nat.zero_add, Nat.sub_zero]
  crcacc := requestCrc_eq cmd payload
  cmdin := rfl

/-- A build from rest answers the frame's length (R166, 30_encoding.md R114). -/
theorem PayloadLoaded.finishBuild_eq (h : PayloadLoaded s payload) (hidle : s.task = .idle) (cmd : Byte) :
    finishBuild (buildFrame cmd s) = .ok { withFrame cmd payload s with
      results := s.results ++ [⟨.ok, BitVec.ofNat 16 (payload.length + 6)⟩] } := by
  have hlen := h.length_le
  have hanswer : (BitVec.ofNat 9 (payload.length + 6)).setWidth 16 = BitVec.ofNat 16 (payload.length + 6) :=
    BitVec.eq_of_toNat_eq (by simp only [BitVec.toNat_setWidth, BitVec.toNat_ofNat]; omega)
  rw [h.buildFrame_eq, finishBuild, finish_of_idle (s := withFrame cmd payload s) _ hidle, ← hanswer]
  rfl

/-- `FB.BUILD` where a request is accepted (R166). -/
theorem PayloadLoaded.execFbBuild_eq (h : PayloadLoaded s payload) (ha : accepting s = true) (cmd : Byte) :
    execFbBuild cmd s = .next { withFrame cmd payload s with
      results := s.results ++ [⟨.ok, BitVec.ofNat 16 (payload.length + 6)⟩] } := by
  rw [execFbBuild, request_accepted _ ha, h.finishBuild_eq ((accepting_iff s).mp ha).2, toOutcome_ok]

/-- Settles O19: the outcome is `execFbBuild_eq`'s, its frame is `frameBuilt_withFrame`'s. -/
theorem frameBuildRequest : Obligations.FrameBuildRequest := fun s cmd _ ha hload =>
  ⟨_, hload.execFbBuild_eq ha cmd, { frameBuilt_withFrame cmd s hload.length_le with }, rfl⟩

/-! ## The properties of a built frame -/

/-- An accepted `FB.BUILD` of a loaded payload has no other outcome than the frame built. -/
theorem PayloadLoaded.frameBuilt_of_exec {cmd : Byte} (h : PayloadLoaded s payload) (ha : accepting s = true)
    (hs : exec (.fbBuild cmd) s = .next t) : FrameBuilt cmd payload s t := by
  obtain ⟨u, hu, hbuilt, -⟩ := frameBuildRequest s cmd payload ha h
  rw [hu] at hs
  cases hs
  exact hbuilt

theorem FrameBuilt.read_frame {cmd : Byte} (h : FrameBuilt cmd payload s t) {a : Nat} (ha : a < payload.length + 6) :
    t.builder.txbuf.read a = (builtFrame cmd payload)[a]? := by
  rw [h.txbuf, if_pos ha]

/-- The bytes that stand after the pad are the frame's. -/
theorem FrameBuilt.eq_tail_of_read {cmd : Byte} {body : List Byte} (h : FrameBuilt cmd payload s t)
    (hlen : body.length = payload.length + 5)
    (hread : ∀ k, k < body.length → t.builder.txbuf.read (k + 1) = body[k]?) :
    body = (builtFrame cmd payload).tail := by
  have htail : (builtFrame cmd payload).tail.length = body.length := by
    rw [List.length_tail, builtFrame_length, hlen]; rfl
  refine List.ext_getElem?' fun k hk => ?_
  rw [htail, max_self] at hk
  rw [List.getElem?_tail, ← h.read_frame (by omega), hread k hk]

/-- Settles O20: each property is one of the frame that stands in `TXBUF`, and ids equal modulo 128 have the same
frame. -/
theorem builtFrameProperties : Obligations.BuiltFrameProperties := by
  intro s s' t t' cmd cmd' payload ha ha' hload hload' hcmd hs hs'
  have hbuilt := hload.frameBuilt_of_exec ha hs
  have hbuilt' := hload'.frameBuilt_of_exec ha' hs'
  refine ⟨?_, hbuilt.read_frame (Nat.succ_pos _), fun body hlen hread => ?_, ?_, fun a hlt => ?_⟩
  · rw [hbuilt.txlen, hload.length_eq]
  · rw [hbuilt.eq_tail_of_read hlen hread, crc8Range_tail_builtFrame]
  · exact BitVec.eq_of_toNat_eq (hbuilt'.txlen.trans hbuilt.txlen.symm)
  · rw [hbuilt.txlen] at hlt
    rw [hbuilt.read_frame hlt, hbuilt'.read_frame hlt, builtFrame_congr payload hcmd]

/-! ## The request rows -/

/-- A request row where a request is accepted: its load, then its build (30_encoding.md R120; entry 11). -/
theorem buildRequest_accepted (cmd : Byte) (ha : accepting s = true) (hlen : payload.length ≤ 255) :
    buildRequest cmd payload s = .next { withFrame cmd payload (loadPayload payload s) with
      results := s.results ++ [⟨.ok, BitVec.ofNat 16 (payload.length + 6)⟩] } := by
  have hidle : (loadPayload payload s).task = .idle := ((accepting_iff s).mp ha).2
  rw [buildRequest, request_accepted _ ha, if_pos (show payload.length ≤ Config.payMax from hlen),
    (loadPayload_loaded s hlen).finishBuild_eq hidle, toOutcome_ok, loadPayload_results]

/-- The payload is loaded, the frame is built, and nothing else changes, whatever the command id (R170 to R176). -/
theorem buildRequest_builds (cmd : Byte) (ha : accepting s = true) (hlen : payload.length ≤ 255) :
    ∃ t, buildRequest cmd payload s = .next t ∧ FrameBuilt cmd payload s t ∧ PayloadLoaded t payload ∧
      (∀ a, payload.length ≤ a → t.builder.payin.read a = s.builder.payin.read a) ∧
      t = { s with
        crcacc := t.crcacc, builder := t.builder,
        results := s.results ++ [⟨.ok, BitVec.ofNat 16 (payload.length + 6)⟩] } :=
  ⟨_, buildRequest_accepted cmd ha hlen, { frameBuilt_withFrame cmd (loadPayload payload s) hlen with },
    { loadPayload_loaded s hlen with },
    fun a ha => (loadPayload_read payload s a).trans (if_neg (Nat.not_lt.mpr ha)), rfl⟩

end

/-- Settles O21: the seven rows are `buildRequest` of their seven ids. -/
theorem requestRowsBuildTheirFrames : Obligations.RequestRowsBuildTheirFrames := by
  intro s payload ha hlen row hrow
  simp only [List.mem_cons, List.not_mem_nil, or_false] at hrow
  obtain rfl | rfl | rfl | rfl | rfl | rfl | rfl := hrow <;> exact ⟨rfl, buildRequest_builds _ ha hlen⟩

/-! ## The frames the spec writes out -/

/-- What encodes to a frame is what the frame decodes to (`encodeThenDecode`). -/
theorem decode_of_encode_eq {i : Instr} {p : Packet} (hwf : i.wf = true) (h : encode i = p) : decode p = .ok i :=
  h ▸ encodeThenDecode i hwf

/-- Settles O6: each frame is the encoding of its instruction, a request's CRC byte by evaluation, and a response's
CRC byte is an operand. -/
theorem writtenFramesDecode : Obligations.WrittenFramesDecode := by
  refine ⟨?_, ?_, ?_, ?_, ?_, ?_, ?_, ?_, ?_, ?_, ?_, ?_, ?_, ?_, ?_⟩ <;>
    exact decode_of_encode_eq (by decide) (by decide +kernel)

end Sys2Proof.Machine
end

section
/-! What a parse does with a list of bytes (43_frame_parser.md R181 to R185), apart from how the bytes come to it: the
relation `Parses`, and two ways to feed it, from bytes already queued and from bytes that arrive one by one. -/

namespace Sys2Proof.Machine

/-! ## Runs of micro-steps -/

/-- A run whose first input is a micro-step goes on from the state that the micro-step leaves. -/
theorem runOn_poll {s t : State} {ready : Bool} {rest : List Input}
    (hm : microStep (some ready) { s with inputs := rest } = .ok { t with inputs := rest }) :
    runOn (.poll ready :: rest) s = runOn rest t := by
  have hstep : step { s with inputs := .poll ready :: rest } = .next { t with inputs := rest } :=
    (step_poll rfl).trans (congrArg toOutcome hm)
  simp only [runOn, List.length_cons, Host.Core.run, core, hstep]

/-- A run of one micro-step is that micro-step. -/
theorem runOn_one_poll (ready : Bool) (s : State) :
    runOn [.poll ready] s = toOutcome (microStep (some ready) { s with inputs := [] }) := by
  have hstep : step { s with inputs := [.poll ready] } = toOutcome (microStep (some ready) { s with inputs := [] }) :=
    step_poll rfl
  simp only [runOn, List.length_cons, List.length_nil, Host.Core.run, core, hstep]
  cases microStep (some ready) { s with inputs := [] } <;> rfl

/-- `FP.PARSE` is the start of a parse with its first poll in the same transition (R180, entry 2). -/
theorem execFpParse_accepted {s : State} (ha : accepting s = true) (ready : Option Bool) :
    execFpParse s = toOutcome (microStep ready (startParse s)) := by
  rw [execFpParse, request_accepted _ ha, microStep_parse ready rfl]

theorem runOn_fpParse {s : State} (ha : accepting s = true) (rest : List Input) :
    runOn (given .fpParse :: rest) s = runOn (.poll true :: rest) (startParse s) := by
  have hstep : step { s with inputs := given .fpParse :: rest } =
      step { startParse s with inputs := .poll true :: rest } := by
    rw [step_packet rfl (encodeThenDecode .fpParse rfl), step_poll rfl]
    exact execFpParse_accepted (s := { s with inputs := rest }) ha (some true)
  simp only [runOn, List.length_cons, Host.Core.run, core, hstep]

/-- A run that begins with `FP.PARSE` and goes on with micro-steps. -/
theorem runOn_fpParse_polls {s : State} (ha : accepting s = true) (n : Nat) :
    runOn (given .fpParse :: polls n) s = runOn (polls (n + 1)) (startParse s) :=
  runOn_fpParse ha (polls n)

/-! ## What a parse does not touch -/

/-- This parse, in the surroundings of `e`: the queue and its capacity, the inputs to come and the outputs are those
of `e`. -/
def State.within (s e : State) : State :=
  { s with queue := e.queue, params := e.params, inputs := e.inputs, outputs := e.outputs }

section
variable (e : State) (b : Byte) (s : State)

theorem syncByte_within : syncByte b (s.within e) = (syncByte b s).within e := by
  simp only [syncByte, apply_ite (State.within · e)]
  rfl

theorem nextPayload_within : nextPayload (s.within e) = (nextPayload s).within e := by
  simp only [nextPayload, endPayload, apply_ite (State.within · e)]
  rfl

theorem lenStageByte_within : lenStageByte b (s.within e) = (lenStageByte b s).within e :=
  Eq.trans (by rfl) (nextPayload_within e _)

theorem payStageByte_within : payStageByte b (s.within e) = (payStageByte b s).within e :=
  Eq.trans (by rfl) (nextPayload_within e _)

theorem crcStageByte_within : crcStageByte b (s.within e) = (crcStageByte b s).within e := by
  simp only [crcStageByte, apply_ite (State.within · e)]
  rfl

end

section
variable {b : Byte} {s t e : State}

/-! One equation for each stage of the parse (entry 17 for the first). -/

theorem parseByte_idle (h : s.parser.pstate = .idle) : parseByte b s = .ok (syncByte b s) := by
  simp only [parseByte, h]

theorem parseByte_sync (h : s.parser.pstate = .sync) : parseByte b s = .ok (syncByte b s) := by
  simp only [parseByte, h]

theorem parseByte_cmd (h : s.parser.pstate = .cmd) : parseByte b s = .ok (cmdStageByte b s) := by
  simp only [parseByte, h]

theorem parseByte_len (h : s.parser.pstate = .len) : parseByte b s = .ok (lenStageByte b s) := by
  simp only [parseByte, h]

theorem parseByte_pay (h : s.parser.pstate = .pay) : parseByte b s = .ok (payStageByte b s) := by
  simp only [parseByte, h]

theorem parseByte_crc (h : s.parser.pstate = .crc) : parseByte b s = .ok (crcStageByte b s) := by
  simp only [parseByte, h]

/-- A stage of the parse neither reads nor writes its surroundings. -/
theorem parseByte_within (e : State) (h : parseByte b s = .ok t) : parseByte b (s.within e) = .ok (t.within e) := by
  match hst : s.parser.pstate with
  | .idle =>
    rw [parseByte_idle hst] at h; cases h
    exact (parseByte_idle (s := s.within e) hst).trans (congrArg _ (syncByte_within e b s))
  | .sync =>
    rw [parseByte_sync hst] at h; cases h
    exact (parseByte_sync (s := s.within e) hst).trans (congrArg _ (syncByte_within e b s))
  | .cmd => rw [parseByte_cmd hst] at h; cases h; exact parseByte_cmd (s := s.within e) hst
  | .len =>
    rw [parseByte_len hst] at h; cases h
    exact (parseByte_len (s := s.within e) hst).trans (congrArg _ (lenStageByte_within e b s))
  | .pay =>
    rw [parseByte_pay hst] at h; cases h
    exact (parseByte_pay (s := s.within e) hst).trans (congrArg _ (payStageByte_within e b s))
  | .crc =>
    rw [parseByte_crc hst] at h; cases h
    exact (parseByte_crc (s := s.within e) hst).trans (congrArg _ (crcStageByte_within e b s))

/-- A micro-step of a parse takes the oldest byte of the queue. -/
theorem microStep_within {rest : List Byte} (ready : Option Bool) (ht : s.task = .parse) (hb : parseByte b s = .ok t)
    (hq : Queued e (b :: rest)) : microStep ready (s.within e) = .ok (t.within (dropOldest e)) := by
  have hpop : pop (s.within e) = .ok (some b, s.within (dropOldest e)) :=
    (hq.congr (t := s.within e) rfl rfl).pop_eq
  rw [microStep_parse (s := s.within e) ready ht, pollQueue, hpop]
  exact parseByte_within _ hb

theorem runOn_parsePoll {more : List Byte} (ht : s.task = .parse) (hb : parseByte b s = .ok t)
    (hq : Queued e (b :: more)) (rest : List Input) :
    runOn (.poll true :: rest) (s.within e) = runOn rest (t.within (dropOldest e)) :=
  runOn_poll (s := s.within e) (t := t.within (dropOldest e))
    (microStep_within (s := s) (t := t) (e := { e with inputs := rest }) (some true) ht hb (hq.congr rfl rfl))

end

/-! ## The bytes of a parse -/

/-- A parse in state `s` takes exactly these bytes, and is then in state `t`; the last byte may end it. -/
inductive Parses : List Byte → State → State → Prop where
  | nil (s : State) : Parses [] s s
  | cons {b : Byte} {rest : List Byte} {s u t : State} (ht : s.task = .parse) (hb : parseByte b s = .ok u)
      (h : Parses rest u t) : Parses (b :: rest) s t

section
variable {bytes more : List Byte} {s t u e : State}

theorem Parses.one {b : Byte} (ht : s.task = .parse) (hb : parseByte b s = .ok t) : Parses [b] s t :=
  .cons ht hb (.nil t)

theorem Parses.append (h : Parses bytes s t) (h' : Parses more t u) : Parses (bytes ++ more) s u := by
  induction h with
  | nil => exact h'
  | cons ht hb _ ih => exact .cons ht hb (ih h')

/-- The bytes are in the queue: one micro-step for each takes them from it. -/
theorem Parses.runOn_polls (h : Parses bytes s t) (hq : Queued e (bytes ++ more)) (rest : List Input) :
    ∃ q, runOn (polls bytes.length ++ rest) (s.within e) = runOn rest (t.within { e with queue := q }) ∧
      Queued { e with queue := q } more ∧ q.buf = e.queue.buf := by
  induction h generalizing e with
  | nil s => exact ⟨e.queue, rfl, hq, rfl⟩
  | cons ht hb _ ih =>
    obtain ⟨q, hrun, hmore, hbuf⟩ := ih hq.dropOldest
    refine ⟨q, (runOn_parsePoll ht hb hq _).trans hrun, hmore, hbuf⟩

/-! ## The bytes arrive one by one -/

/-- What is left of the surroundings where each of `n` bytes arrived at an empty queue and was taken at once. -/
structure PassedThrough (n : Nat) (e e' : State) : Prop where
  queued : Queued e' []
  head : e'.queue.head = (e.queue.tail + n) % e.params.qcap
  tail : e'.queue.tail = (e.queue.tail + n) % e.params.qcap
  frame : ∀ a, (∀ k, k < n → a ≠ (e.queue.tail + k) % e.params.qcap) → e'.queue.buf.read a = e.queue.buf.read a
  params : e'.params = e.params
  inputs : e'.inputs = e.inputs
  outputs : e'.outputs = e.outputs ++ List.replicate n .clearOverrunFlag

/-- The two slots of an empty queue are one. -/
theorem Queued.head_eq_tail (h : Queued e []) : e.queue.head = e.queue.tail :=
  (QueueState.isEmpty_iff.mp (h.isEmpty_iff.mpr rfl)).2

theorem Queued.receive_first (h : Queued e []) (b : Byte) : Queued (Machine.receiveEvent b e) [b] := by
  have := h.receiveEvent b
  rwa [abstractPush, if_pos (show ([] : List Byte).length < e.params.qcap from h.legal.cap_pos)] at this

theorem PassedThrough.zero (h : Queued e []) : PassedThrough 0 e e where
  queued := h
  head := by rw [h.head_eq_tail, Nat.add_zero, Nat.mod_eq_of_lt h.legal.tail_lt]
  tail := by rw [Nat.add_zero, Nat.mod_eq_of_lt h.legal.tail_lt]
  frame _ _ := rfl
  params := rfl
  inputs := rfl
  outputs := (List.append_nil _).symm

/-- One byte more, before the others. -/
theorem PassedThrough.succ {n : Nat} {e' : State} {b : Byte} (hq : Queued e [])
    (h : PassedThrough n (dropOldest (receiveEvent b e)) e') : PassedThrough (n + 1) e e' := by
  have htail : (dropOldest (receiveEvent b e)).queue.tail = (e.queue.tail + 1) % e.params.qcap := by
    have hf := (QueueState.isEmpty_iff.mp (hq.isEmpty_iff.mpr rfl)).1
    simp [dropOldest, receiveEvent, push, hf]
  have hslot : ∀ k, ((e.queue.tail + 1) % e.params.qcap + k) % e.params.qcap =
      (e.queue.tail + (k + 1)) % e.params.qcap := fun k => by rw [Nat.mod_add_mod, Nat.add_assoc, Nat.add_comm 1 k]
  exact
    { queued := h.queued
      head := (h.head.trans (by rw [htail]; rfl)).trans (hslot n)
      tail := (h.tail.trans (by rw [htail]; rfl)).trans (hslot n)
      frame := fun a ha => by
        have hfirst : a ≠ e.queue.head := by
          have := ha 0 (Nat.succ_pos n)
          rwa [Nat.add_zero, Nat.mod_eq_of_lt hq.legal.tail_lt, ← hq.head_eq_tail] at this
        refine (h.frame a fun k hk => ?_).trans (Memory.read_write_other _ b hfirst)
        rw [htail]
        exact (hslot k).symm ▸ ha (k + 1) (Nat.succ_lt_succ hk)
      params := h.params
      inputs := h.inputs
      outputs := h.outputs.trans (by simp [dropOldest, List.replicate_succ]) }

/-- The input list in which each of these bytes arrives and is polled for. -/
def arrivalsPolled (bytes : List Byte) : List Input := bytes.flatMap fun b => [given (.evRx b), .poll true]

/-- Each byte arrives and is taken by a micro-step: by `feed`, and as a run of inputs. -/
theorem Parses.feed_eq (h : Parses bytes s t) (hq : Queued e []) :
    ∃ e', feed bytes (s.within e) = .ok (t.within e') ∧
      (∀ rest, runOn (arrivalsPolled bytes ++ rest) (s.within e) = runOn rest (t.within e')) ∧
      PassedThrough bytes.length e e' := by
  induction h generalizing e with
  | nil s => exact ⟨e, rfl, fun _ => rfl, .zero hq⟩
  | @cons b bytes s u t ht hb _ ih =>
    have arrived := hq.receive_first b
    obtain ⟨e', hfeed, hrun, hpassed⟩ := ih arrived.dropOldest
    refine ⟨e', ?_, fun rest => ?_, hpassed.succ hq⟩
    · exact (feed_cons (s := s.within e) (microStep_within none ht hb arrived)).trans hfeed
    · refine ((runOn_evRx _ b _).trans ?_).trans (hrun rest)
      exact runOn_parsePoll ht hb arrived _

end

end Sys2Proof.Machine
end

section
/-! Stage 1 of a parse, the search for the magic (43_frame_parser.md R181, R199): what it has discarded after any bytes
without a magic, the byte that completes one, and the byte at which it gives up. -/

namespace Sys2Proof.Machine

/-! ## The bytes searched -/

/-- The last of these bytes may be the first of a magic. -/
def endsInMagic0 (seen : List Byte) : Bool := seen.getLast? == some Config.magic0

/-- How many of these bytes are shown not to start a magic, where none stands among them. -/
def discards (seen : List Byte) : Nat := seen.length - if endsInMagic0 seen then 1 else 0

theorem endsInMagic0_concat (seen : List Byte) (b : Byte) : endsInMagic0 (seen ++ [b]) = (b == Config.magic0) := by
  simp [endsInMagic0]

theorem discards_add (seen : List Byte) : discards seen + (if endsInMagic0 seen then 1 else 0) = seen.length := by
  have hpos : endsInMagic0 seen = true → 0 < seen.length := by
    cases seen with
    | nil => exact fun h => absurd h (by decide)
    | cons => exact fun _ => Nat.succ_pos _
  simp only [discards]
  split
  · next h => exact Nat.sub_add_cancel (hpos h)
  · rfl

/-- A byte more discards what was pending, and itself unless it may start a magic. -/
theorem discards_concat (seen : List Byte) (b : Byte) : discards (seen ++ [b]) =
    discards seen + (if endsInMagic0 seen then 1 else 0) + if b == Config.magic0 then 0 else 1 := by
  rw [discards_add, discards, endsInMagic0_concat, List.length_append, List.length_singleton]
  split <;> rfl

theorem discards_le_length (seen : List Byte) : discards seen ≤ seen.length := Nat.sub_le _ _

/-- A magic inside the first bytes of a list is one of the list. -/
theorem MagicAt.of_prefix {seen bytes : List Byte} {j : Nat} (h : MagicAt seen j) (hp : seen <+: bytes) :
    MagicAt bytes j ∧ j + 1 < seen.length := by
  obtain ⟨more, rfl⟩ := hp
  obtain ⟨h0, h1⟩ := h
  have hj := (List.getElem?_eq_some_iff.mp h1).1
  exact ⟨⟨(List.getElem?_append_left (Nat.lt_of_succ_lt hj)).trans h0, (List.getElem?_append_left hj).trans h1⟩, hj⟩

/-- A byte that completes a magic stands next to its first byte. -/
theorem magicAt_concat {seen : List Byte} {b : Byte} (hends : endsInMagic0 seen = true) (hb : b = Config.magic1) :
    ∃ j, MagicAt (seen ++ [b]) j := by
  obtain rfl | ⟨before, a, rfl⟩ := seen.eq_nil_or_concat'
  · exact absurd hends (by decide)
  · rw [endsInMagic0_concat, beq_iff_eq] at hends
    subst hends hb
    exact ⟨before.length, by simp [MagicAt, Config.magic0, Config.magic1]⟩

/-! ## The search -/

/-- The search has seen these bytes, and no magic in them. -/
structure Searching (seen : List Byte) (s : State) : Prop where
  task : s.task = .parse
  pstate : s.parser.pstate = .sync
  ndisc : s.parser.ndisc.toNat = discards seen
  haveaa : s.parser.haveaa = endsInMagic0 seen

/-- The parse after a search through these bytes, the last of them just taken. -/
def searched (seen : List Byte) (s : State) : State :=
  loadRxTimeout { s with parser := { s.parser with
    ndisc := BitVec.ofNat 3 (discards seen), haveaa := endsInMagic0 seen } }

/-- The parse just after the magic, behind `n` discarded bytes (R181, R182). -/
def magicFound (n : Nat) (s : State) : State :=
  loadRxTimeout { s with parser := { s.parser with
    pstate := .cmd, ndisc := BitVec.ofNat 3 n, haveaa := true, rxcrc := Config.rxcrcSeed } }

section
variable {s : State} {seen : List Byte} {b : Byte}

theorem ParseJustBegun.searching (h : ParseJustBegun s) : Searching [] s :=
  ⟨h.task, h.pstate, by rw [h.ndisc]; rfl, h.haveaa⟩

theorem ParseJustBegun.searched (h : ParseJustBegun s) (hd : discards seen ≤ 3) :
    Searching seen (searched seen s) where
  task := h.task
  pstate := h.pstate
  ndisc := by
    show (BitVec.ofNat 3 (discards seen)).toNat = _
    rw [BitVec.toNat_ofNat]; omega
  haveaa := rfl

/-- A byte of the search that completes no magic: it goes on, or the fourth discard ends it (R181). -/
theorem Searching.syncByte_eq (h : Searching seen s) (hno : ¬ (endsInMagic0 seen = true ∧ b = Config.magic1)) :
    (discards (seen ++ [b]) ≤ 3 → syncByte b s = searched (seen ++ [b]) s) ∧
    (3 < discards (seen ++ [b]) → syncByte b s = raise .invalidMagic { s with parser := { s.parser with
      ndisc := BitVec.ofNat 3 (discards (seen ++ [b])), haveaa := endsInMagic0 (seen ++ [b]) } }) := by
  rcases syncByte_cases b s with ⟨haa, hb, -⟩ | ⟨-, n, hn, hcases⟩
  · exact absurd ⟨h.haveaa ▸ haa, hb⟩ hno
  · rw [h.ndisc, h.haveaa, ← discards_concat] at hn
    subst hn
    rw [← endsInMagic0_concat seen] at hcases
    rcases hcases with ⟨hle, e⟩ | ⟨hlt, e⟩
    · exact ⟨fun _ => e, fun hgt => absurd hle (Nat.not_le.mpr hgt)⟩
    · exact ⟨fun hle' => absurd hle' (Nat.not_le.mpr hlt), fun _ => e⟩

theorem Searching.parseByte_eq (h : Searching seen s) (hno : ∀ j, ¬ MagicAt (seen ++ [b]) j)
    (hd : discards (seen ++ [b]) ≤ 3) : parseByte b s = .ok (Machine.searched (seen ++ [b]) s) := by
  rw [parseByte_sync h.pstate]
  exact congrArg _
    ((h.syncByte_eq fun ⟨hends, hb⟩ => absurd (magicAt_concat hends hb) (not_exists.mpr hno)).1 hd)

theorem no_magic_of_concat (hno : ∀ j, ¬ MagicAt (seen ++ [b]) j) (j : Nat) : ¬ MagicAt seen j :=
  fun hj => hno j (hj.of_prefix (List.prefix_append seen [b])).1

/-- The search through bytes without a magic of which at most three are discarded. -/
theorem ParseJustBegun.parses_search (h : ParseJustBegun s) (hne : seen ≠ []) (hno : ∀ j, ¬ MagicAt seen j)
    (hd : discards seen ≤ 3) : Parses seen s (Machine.searched seen s) := by
  induction seen using List.reverseRecOn with
  | nil => exact absurd rfl hne
  | append_singleton seen b ih =>
    obtain rfl | hseen := eq_or_ne seen []
    · exact .one h.task (h.searching.parseByte_eq hno hd)
    · have hd' : discards seen ≤ 3 := by rw [discards_concat] at hd; omega
      have at_b := h.searched hd'
      exact (ih hseen (no_magic_of_concat hno) hd').append (.one at_b.task (at_b.parseByte_eq hno hd))

/-- The fourth discard ends the parse at once (R181, 60_exceptions.md R302). -/
theorem ParseJustBegun.parses_invalidMagic (h : ParseJustBegun s) (hne : seen ≠ [])
    (hno : ∀ j, ¬ MagicAt (seen ++ [b]) j) (hd : discards seen ≤ 3) (hover : 3 < discards (seen ++ [b])) :
    Parses (seen ++ [b]) s (raise .invalidMagic (Machine.searched (seen ++ [b]) s)) := by
  have at_b := h.searched hd
  have hbyte := (at_b.syncByte_eq fun ⟨hends, hb⟩ =>
    absurd (magicAt_concat hends hb) (not_exists.mpr hno)).2 hover
  exact (h.parses_search hne (no_magic_of_concat hno) hd).append
    (.one at_b.task (hbyte ▸ parseByte_sync at_b.pstate))

/-- A magic behind at most three bytes is found at its second byte (R181, R199). -/
theorem ParseJustBegun.parses_magic {before rest : List Byte} (h : ParseJustBegun s) (hlen : before.length ≤ 3)
    (hno : ∀ j, j < before.length → ¬ MagicAt (before ++ 0xAA#8 :: 0x55#8 :: rest) j) :
    Parses (before ++ [0xAA#8, 0x55#8]) s (magicFound before.length s) := by
  have hends : endsInMagic0 (before ++ [0xAA#8]) = true := endsInMagic0_concat before _
  have hcount : discards (before ++ [0xAA#8]) = before.length := by simp [discards, hends]
  have hprefix : before ++ [0xAA#8] <+: before ++ 0xAA#8 :: 0x55#8 :: rest := ⟨0x55#8 :: rest, by simp⟩
  have hno' : ∀ j, ¬ MagicAt (before ++ [0xAA#8]) j := fun j hj => by
    obtain ⟨hmagic, hj'⟩ := hj.of_prefix hprefix
    exact hno j (by simpa using hj') hmagic
  have hd : discards (before ++ [0xAA#8]) ≤ 3 := hcount.trans_le hlen
  have at_magic1 := h.searched hd
  have hbyte : syncByte 0x55#8 (Machine.searched (before ++ [0xAA#8]) s) = magicFound before.length s := by
    rcases syncByte_cases 0x55#8 (Machine.searched (before ++ [0xAA#8]) s) with ⟨-, -, e⟩ | ⟨hnot, -⟩
    · rw [e, magicFound, ← hcount, ← hends]; rfl
    · exact absurd ⟨at_magic1.haveaa.trans hends, rfl⟩ hnot
  have found := Parses.one at_magic1.task (hbyte ▸ parseByte_sync at_magic1.pstate)
  have search := (h.parses_search (by simp) hno' hd).append found
  rwa [List.append_assoc] at search

end

/-- The bytes at which the search of R199 gives up: the fourth, or, where that one may start a magic, the fifth. -/
theorem discards_given_up {bytes : List Byte} {m : Nat} {b : Byte} (hb : bytes[m]? = some b)
    (hm : m = if bytes[3]? = some 0xAA#8 then 4 else 3) :
    discards (bytes.take m) ≤ 3 ∧
      discards (bytes.take m ++ [b]) = if m + 1 = 5 ∧ bytes[4]? ≠ some 0xAA#8 then 5 else 4 := by
  have hlen : (bytes.take m).length = m :=
    List.length_take_of_le (Nat.le_of_lt (List.getElem?_eq_some_iff.mp hb).1)
  have hcount : discards (bytes.take m ++ [b]) = m + 1 - if b == 0xAA#8 then 1 else 0 := by
    rw [discards, endsInMagic0_concat, List.length_append, hlen]; rfl
  rw [hcount]
  split at hm
  · next h3 =>
    subst hm
    have hends : endsInMagic0 (bytes.take 4) = true := by
      rw [List.take_add_one, h3]; exact endsInMagic0_concat _ _
    refine ⟨by rw [discards, hlen, hends]; decide, ?_⟩
    rw [hb]
    by_cases hbm : b = 0xAA#8 <;> simp [hbm]
  · next h3 =>
    subst hm
    have hbm : b ≠ 0xAA#8 := fun h => h3 (h ▸ hb)
    exact ⟨(discards_le_length _).trans hlen.le, by simp [hbm]⟩

/-- Without a magic at offsets 0 to 3 the search gives up at that byte (R199). -/
theorem ParseJustBegun.gives_up {s : State} {bytes : List Byte} {m : Nat} (h : ParseJustBegun s)
    (hno : ∀ j, j ≤ 3 → ¬ MagicAt bytes j) (hm : m = if bytes[3]? = some 0xAA#8 then 4 else 3)
    (hn : m + 1 ≤ bytes.length) :
    Parses (bytes.take (m + 1)) s (raise .invalidMagic (Machine.searched (bytes.take (m + 1)) s)) ∧
      discards (bytes.take (m + 1)) = if m + 1 = 5 ∧ bytes[4]? ≠ some 0xAA#8 then 5 else 4 := by
  have hb : bytes[m]? = some bytes[m] := List.getElem?_eq_getElem hn
  have htake : bytes.take m ++ [bytes[m]] = bytes.take (m + 1) := by rw [List.take_add_one, hb]; rfl
  obtain ⟨hd, hover⟩ := discards_given_up hb hm
  have hm4 : 3 ≤ m ∧ m ≤ 4 := by split at hm <;> omega
  have hne : bytes.take m ≠ [] := by
    rw [← List.length_pos_iff, List.length_take]; omega
  have hno' : ∀ j, ¬ MagicAt (bytes.take m ++ [bytes[m]]) j := fun j hj => by
    obtain ⟨hmagic, hlt⟩ := hj.of_prefix (htake ▸ List.take_prefix _ _)
    rw [htake, List.length_take] at hlt
    exact hno j (by omega) hmagic
  have parse := h.parses_invalidMagic hne hno' hd (by rw [hover]; split <;> decide)
  rw [htake] at parse hover
  exact ⟨parse, hover⟩

/-! ## A parse on queued bytes -/

/-- A parse that has just begun, with this count for its first wait (R180, R181). -/
def parseBegun (tmo : Half) (s : State) : State :=
  { s with
    transport := { s.transport with tmo := tmo }
    parser := { s.parser with pstate := .sync, ndisc := 0#3, haveaa := false }
    task := .parse }

theorem parseBegun_begun (tmo : Half) (s : State) : ParseJustBegun (parseBegun tmo s) := ⟨rfl, rfl, rfl, rfl⟩

theorem startParse_eq (s : State) : startParse s = parseBegun Config.rxTimeout s := rfl

theorem ParseJustBegun.eq_parseBegun {s : State} (h : ParseJustBegun s) : s = parseBegun s.transport.tmo s := by
  rw [parseBegun, ← h.task, ← h.pstate, ← h.ndisc, ← h.haveaa]

/-- A parse takes its bytes from the queue, one for each micro-step. -/
theorem Parses.runOn_queued {bytes rest : List Byte} {s t : State} (h : Parses bytes s t)
    (hq : Queued s (bytes ++ rest)) :
    ∃ q, runOn (polls bytes.length) s = .next (t.within { s with queue := q, inputs := [] }) ∧
      Queued { s with queue := q } rest ∧ q.buf = s.queue.buf := by
  obtain ⟨q, hrun, hrest, hbuf⟩ := h.runOn_polls hq []
  rw [List.append_nil] at hrun
  exact ⟨q, hrun.trans (runOn_nil _), hrest, hbuf⟩

/-- The first failed poll of a parse waits for the second (R181, 45_transport_exchange.md R266). -/
theorem failedPoll_startParse (s : State) :
    failedPoll (startParse s) = (parseBegun 749#16 s).emit .waitForEvent := by
  simp [failedPoll, countDown, startParse_eq, parseBegun, Config.rxTimeout]

/-- Settles O36: the first poll takes a byte of the search, or finds the queue empty. -/
theorem parseStarts : Obligations.ParseStarts := by
  intro s ha
  have hstart : exec .fpParse s = toOutcome (microStep none (startParse s)) := execFpParse_accepted ha none
  have begun := parseBegun_begun Config.rxTimeout s
  refine ⟨fun b rest hq => ?_, fun hq => ?_⟩
  · have hno : ∀ j, ¬ MagicAt ([] ++ [b]) j := fun j hj => by
      have := (hj.of_prefix (List.prefix_refl _)).2
      simp at this
    have hd : discards ([] ++ [b]) ≤ 3 := (discards_le_length _).trans (by simp)
    refine ⟨_, hstart.trans (congrArg toOutcome
        (microStep_within (e := s) none begun.task (begun.searching.parseByte_eq hno hd) hq)),
      hq.dropOldest.congr rfl rfl, rfl, ?_⟩
    by_cases h : b = 0xAA#8 <;>
      simp [searched, State.within, endsInMagic0, discards, Config.magic0, h, loadRxTimeout, parseBegun, dropOldest,
        Config.rxTimeout]
  · have hempty : (startParse s).queue.isEmpty = true := hq.isEmpty_iff.mpr rfl
    rw [hstart, microStep_parse none rfl, pollQueue_empty _ hempty, failedPoll_startParse]
    rfl

/-- Settles O37: `ParseJustBegun.parses_magic` on the queued bytes. -/
theorem parserResynchronises : Obligations.ParserResynchronises := by
  intro s before rest ha hq hlen hno
  have found := (parseBegun_begun Config.rxTimeout s).parses_magic hlen hno
  have hq' : Queued (startParse s) ((before ++ [0xAA#8, 0x55#8]) ++ rest) := by
    rw [List.append_assoc]; exact hq.congr rfl rfl
  obtain ⟨q, hrun, hrest, hbuf⟩ := found.runOn_queued hq'
  refine ⟨_, Eq.trans ?_ hrun, hrest.congr rfl rfl, hbuf, rfl⟩
  rw [runOn_fpParse_polls ha, List.length_append]
  rfl

/-- Settles O38: `ParseJustBegun.gives_up` on the queued bytes, stand-alone from `FP.PARSE` on. -/
theorem parserGivesUpSearch : Obligations.ParserGivesUpSearch := by
  intro s bytes hq hno n hn run hrun
  obtain ⟨m, hm, hnm⟩ : ∃ m, m = (if bytes[3]? = some 0xAA#8 then 4 else 3) ∧ n = m + 1 :=
    ⟨_, rfl, by show (if _ then _ else _) = _; split <;> rfl⟩
  clear_value n
  subst hnm
  obtain ⟨tmo, hbegun⟩ : ∃ tmo, runOn run s = runOn (polls (m + 1)) (parseBegun tmo s) := by
    rcases hrun with ⟨ha, rfl⟩ | ⟨hb, rfl⟩
    · exact ⟨Config.rxTimeout, runOn_fpParse_polls ha m⟩
    · exact ⟨s.transport.tmo, congrArg _ hb.eq_parseBegun⟩
  obtain ⟨gives_up, hcount⟩ := (parseBegun_begun tmo s).gives_up hno hm hn
  have hq' : Queued (parseBegun tmo s) (bytes.take (m + 1) ++ bytes.drop (m + 1)) := by
    rw [List.take_append_drop]; exact hq.congr rfl rfl
  obtain ⟨q, hpolls, hrest, hbuf⟩ := gives_up.runOn_queued hq'
  rw [List.length_take_of_le hn] at hpolls
  have hndisc : (if m + 1 = 5 ∧ bytes[4]? ≠ some 0xAA#8 then 5#3 else 4#3) =
      BitVec.ofNat 3 (discards (bytes.take (m + 1))) := by
    rw [hcount]; split <;> rfl
  refine ⟨_, hbegun.trans hpolls, hrest.congr rfl rfl, hbuf, ⟨rfl, rfl⟩, ?_⟩
  rw [hndisc]
  rfl

end Sys2Proof.Machine
end

section
/-! Stages 2 to 4 of a parse (43_frame_parser.md R182 to R185): the parse through a whole response frame behind at most
three other bytes, up to the dispatch or to the CRC byte that differs. -/

namespace Sys2Proof.Machine

/-! ## The payload -/

/-- The parser's registers after these payload bytes (R184). -/
def ParserState.collect (p : ParserState) (bytes : List Byte) : ParserState :=
  { p with
    pb := p.pb.writeRange p.pidx.toNat bytes
    rxcrc := crc8Range p.rxcrc bytes
    pidx := p.pidx + BitVec.ofNat 8 bytes.length }

theorem ParserState.collect_nil (p : ParserState) : p.collect [] = p := by
  simp [collect, Memory.writeRange, crc8Range]

theorem ParserState.collect_cons {p : ParserState} (b : Byte) (rest : List Byte) (h : p.pidx.toNat < 255) :
    (p.collect [b]).collect rest = p.collect (b :: rest) := by
  have hone : (p.pidx + 1#8).toNat = p.pidx.toNat + 1 := by
    rw [BitVec.toNat_add, BitVec.toNat_ofNat]; omega
  simp only [collect, Memory.writeRange, crc8Range, List.foldl_cons, List.foldl_nil, List.length_cons, List.length_nil,
    hone, BitVec.add_assoc, ← BitVec.ofNat_add, Nat.zero_add, Nat.add_comm 1]

theorem loadRxTimeout_loaded {s : State} (h : s.transport.tmo = Config.rxTimeout) : loadRxTimeout s = s := by
  rw [loadRxTimeout, ← h]

/-- Stage 3 takes exactly the bytes that the length byte counts (R184). -/
theorem parses_payload {s : State} {bytes : List Byte} (ht : s.task = .parse) (hst : s.parser.pstate = .pay)
    (htmo : s.transport.tmo = Config.rxTimeout) (hlen : s.parser.pidx.toNat + bytes.length = s.parser.rxlen.toNat) :
    Parses bytes (nextPayload s) (endPayload { s with parser := s.parser.collect bytes }) := by
  induction bytes generalizing s with
  | nil =>
    rcases nextPayload_cases s with ⟨hlt, -⟩ | ⟨-, e⟩
    · exact absurd hlt hlen.not_lt
    · rw [e, ParserState.collect_nil]; exact .nil _
  | cons b rest ih =>
    rw [List.length_cons] at hlen
    have hmax := s.parser.rxlen.isLt
    rcases nextPayload_cases s with ⟨-, e⟩ | ⟨hge, -⟩
    · rw [e, loadRxTimeout_loaded htmo, ← ParserState.collect_cons b rest (by omega)]
      have hpidx : (s.parser.pidx + 1#8).toNat = s.parser.pidx.toNat + 1 := by
        rw [BitVec.toNat_add, BitVec.toNat_ofNat]; omega
      exact .cons ht (parseByte_pay hst) (ih (s := { s with parser := s.parser.collect [b] }) ht hst htmo (by
        show (s.parser.pidx + 1#8).toNat + rest.length = s.parser.rxlen.toNat
        omega))
    · omega

/-! ## The frame -/

/-- The parse with a response frame taken up to its payload's end, behind `n` discarded bytes. -/
def frameTaken (stage : PState) (n : Nat) (id : Byte) (payload : List Byte) (s : State) : State :=
  loadRxTimeout { s with parser := { s.parser with
    pstate := stage, ndisc := BitVec.ofNat 3 n, haveaa := true, rxcmd := id, rxlen := lengthByte payload,
    rxcrc := responseCrc id payload, pidx := lengthByte payload, pb := s.parser.pb.writeRange 0 payload } }

/-- The parse with a response frame taken up to its length byte. -/
def lengthTaken (n : Nat) (id len : Byte) (s : State) : State :=
  loadRxTimeout { s with parser := { s.parser with
    pstate := .pay, ndisc := BitVec.ofNat 3 n, haveaa := true, rxcmd := id, rxlen := len,
    rxcrc := crc8Range Config.rxcrcSeed [id, len], pidx := 0#8 } }

section
variable {s : State} {id : Byte} {payload : List Byte}

theorem lengthTaken_collect (n : Nat) (id : Byte) (payload : List Byte) (s : State) :
    { lengthTaken n id (lengthByte payload) s with
      parser := (lengthTaken n id (lengthByte payload) s).parser.collect payload } =
      frameTaken .pay n id payload s := by
  have hpidx : 0#8 + BitVec.ofNat 8 payload.length = lengthByte payload := BitVec.zero_add _
  simp only [ParserState.collect, lengthTaken, frameTaken, loadRxTimeout, hpidx]
  rfl

/-- Stages 2 and 3, after the magic. -/
theorem parses_after_magic (n : Nat) (ht : s.task = .parse) (hlen : payload.length ≤ 255) :
    Parses (id :: lengthByte payload :: payload) (magicFound n s)
      (endPayload (frameTaken .pay n id payload s)) := by
  have hcount : (0#8).toNat + payload.length = (lengthByte payload).toNat :=
    (Nat.zero_add _).trans (toNat_ofNat_length hlen).symm
  have taken := parses_payload (s := lengthTaken n id (lengthByte payload) s) ht rfl rfl hcount
  rw [lengthTaken_collect] at taken
  exact .cons ht (parseByte_cmd rfl) (.cons ht (parseByte_len rfl) taken)

variable {before rest : List Byte}

/-- Stages 1 to 3 of a parse that has just begun. -/
theorem ParseJustBegun.parses_frame (h : ParseJustBegun s) (hlen : payload.length ≤ 255) (hbefore : before.length ≤ 3)
    (hno : ∀ j, j < before.length → ¬ MagicAt (before ++ 0xAA#8 :: 0x55#8 :: rest) j) :
    Parses (before ++ legacyFrame id payload) s (endPayload (frameTaken .pay before.length id payload s)) := by
  have whole := (h.parses_magic hbefore hno).append (parses_after_magic (id := id) before.length h.task hlen)
  rwa [List.append_assoc] at whole

/-- The stage in which a response with this id comes to its dispatch (R185). -/
def lastStage (id : Byte) : PState := if isLegacyId id then .pay else .crc

theorem endPayload_legacy (n : Nat) (hid : isLegacyId id = true) :
    endPayload (frameTaken .pay n id payload s) = { frameTaken .pay n id payload s with task := .dispatch } :=
  if_pos hid

theorem endPayload_awaits_crc (n : Nat) (hid : isLegacyId id = false) :
    endPayload (frameTaken .pay n id payload s) = frameTaken .crc n id payload s :=
  if_neg (by simp [frameTaken, hid])

/-- The CRC byte, where the frame has one (R185). -/
theorem ParseJustBegun.parses_crc (h : ParseJustBegun s) (n : Nat) (crc : Byte) :
    Parses [crc] (frameTaken .crc n id payload s) (crcStageByte crc (frameTaken .crc n id payload s)) :=
  .one h.task (parseByte_crc rfl)

theorem crcStageByte_right (n : Nat) : crcStageByte (responseCrc id payload) (frameTaken .crc n id payload s) =
    { frameTaken .crc n id payload s with task := .dispatch } :=
  if_pos (beq_self_eq_true _)

theorem crcStageByte_wrong {crc : Byte} (n : Nat) (h : crc ≠ responseCrc id payload) :
    crcStageByte crc (frameTaken .crc n id payload s) = raise .crcMismatch (frameTaken .crc n id payload s) :=
  if_neg (by simpa [frameTaken] using h)

/-- The parse with a whole response frame taken, its right CRC included where it has one. -/
def dispatching (n : Nat) (id : Byte) (payload : List Byte) (s : State) : State :=
  { frameTaken (lastStage id) n id payload s with task := .dispatch }

/-- A response frame of any id, with its right CRC where it has one, comes to the dispatch with its last byte. -/
theorem ParseJustBegun.parses_responseOfId (h : ParseJustBegun s) (hlen : payload.length ≤ 255)
    (hbefore : before.length ≤ 3)
    (hno : ∀ j, j < before.length → ¬ MagicAt (before ++ 0xAA#8 :: 0x55#8 :: rest) j) :
    Parses (before ++ responseOfId id payload) s (dispatching before.length id payload s) := by
  have frame := h.parses_frame (id := id) hlen hbefore hno
  cases hid : isLegacyId id
  · rw [endPayload_awaits_crc _ hid] at frame
    have whole := frame.append (h.parses_crc before.length (responseCrc id payload))
    rw [List.append_assoc, crcStageByte_right] at whole
    rw [responseOfId, dispatching, lastStage, hid]
    exact whole
  · rw [endPayload_legacy _ hid] at frame
    rw [responseOfId, dispatching, lastStage, hid]
    exact frame

/-- A frame with a CRC byte of its own, right or wrong, ends with that byte. -/
theorem ParseJustBegun.parses_responseFrame (h : ParseJustBegun s) (hlen : payload.length ≤ 255)
    (hid : isLegacyId id = false) (crc : Byte) :
    Parses (responseFrame id payload crc) s (crcStageByte crc (frameTaken .crc 0 id payload s)) := by
  have frame := h.parses_frame (id := id) (before := []) (rest := []) hlen (Nat.zero_le _) nofun
  rw [endPayload_awaits_crc _ hid] at frame
  exact frame.append (h.parses_crc 0 crc)

end

end Sys2Proof.Machine
end

section
/-! Stage 5 of a parse, the dispatch (43_frame_parser.md R186 to R197): what it can answer in any state, and what the
decode of each id makes of a payload that was received. -/

namespace Sys2Proof.Machine

/-! ## The payload as the dispatch reads it -/

/-- This payload was received: `RXLEN` bytes of `PB` (R184). -/
structure PayloadReceived (p : ParserState) (payload : List Byte) : Prop where
  rxlen : p.rxlen.toNat = payload.length
  bytes : ∀ i, i < payload.length → p.pb.read i = payload[i]?

theorem PayloadReceived.received {p : ParserState} {payload : List Byte} (h : PayloadReceived p payload) :
    Received p p.rxlen.toNat := fun i hi => by
  rw [h.rxlen] at hi
  rw [h.bytes i hi]
  simpa using hi

/-- A dispatch that ended in the commit of settings and a `LEGACYOK`, both of which this relation allows for whatever
payload was received. -/
def Committed (allowed : List Byte → VtxSettings → Bool → Prop) (s t : State) : Prop :=
  ∃ v n l, t = commit v { s with draws := n, parser := { s.parser with legacyok := l } } ∧
    ∀ payload, PayloadReceived s.parser payload → allowed payload v l

section
variable {s t : State}

/-- A decode that begins with a payload read goes on with the byte seen there, and only a draw may have been counted. -/
theorem readPayload_bind_seen {i : Nat} {next : Byte × State → Except Fault State}
    (h : (readPayload i s >>= next) = .ok t) :
    ∃ b n, (∀ payload, PayloadReceived s.parser payload → SeenAt payload i b) ∧
      next (b, { s with draws := n }) = .ok t := by
  match hr : readPayload i s with
  | .error f => rw [hr] at h; cases h
  | .ok (b, u) =>
    rw [hr] at h
    rcases readPayload_cases hr with ⟨-, hb, rfl⟩ | ⟨hge, -, rfl⟩
    · exact ⟨b, u.draws, fun payload hp hi => (hp.bytes i hi).symm.trans hb, h⟩
    · exact ⟨b, s.draws + 1, fun payload hp hi => absurd (hp.rxlen ▸ hge) (Nat.not_le.mpr hi), h⟩

theorem bigEndian_toNat (hi lo : Byte) : (bigEndian hi lo).toNat = hi.toNat * 256 + lo.toNat := by
  rw [bigEndian, BitVec.toNat_append, ← Nat.shiftLeft_add_eq_or_of_lt lo.isLt, Nat.shiftLeft_eq]

/-! ## One decode rule after the other -/

theorem decodeGetSettings_commits {ver : BitVec 2} (h : decodeGetSettings ver s = .ok t) :
    Committed (fun payload v l => SettingsRead ver payload v ∧
      (6 ≤ payload.length → l = decide (payload[5]? = some s.parser.rxcrc))) s t := by
  obtain ⟨p5, n5, h5, h⟩ := readPayload_bind_seen h
  obtain ⟨p0, n0, h0, h⟩ := readPayload_bind_seen h
  obtain ⟨p1, n1, h1, h⟩ := readPayload_bind_seen h
  obtain ⟨p2, n2, h2, h⟩ := readPayload_bind_seen h
  obtain ⟨p3, n3, h3, h⟩ := readPayload_bind_seen h
  obtain ⟨p4, n4, h4, h⟩ := readPayload_bind_seen h
  cases h
  refine ⟨_, n4, s.parser.rxcrc == p5, rfl, fun payload hp => ⟨⟨rfl, h0 payload ⟨hp.1, hp.2⟩, h1 payload ⟨hp.1, hp.2⟩,
    h2 payload ⟨hp.1, hp.2⟩, p3, p4, h3 payload ⟨hp.1, hp.2⟩, h4 payload ⟨hp.1, hp.2⟩, bigEndian_toNat p3 p4⟩,
    fun hlen => ?_⟩⟩
  rw [h5 payload hp hlen, beq_eq_decide]
  exact decide_eq_decide.mpr (eq_comm.trans (Option.some_inj).symm)

/-- The responses that write one setting leave `LEGACYOK` alone. -/
theorem decodeSetFrequency_commits (h : decodeSetFrequency s = .ok t) :
    Committed (fun payload v l => FrequencyRead payload s.settings v ∧ l = s.parser.legacyok) s t := by
  obtain ⟨p0, n0, h0, h⟩ := readPayload_bind_seen h
  obtain ⟨p1, n1, h1, h⟩ := readPayload_bind_seen h
  cases h
  exact ⟨_, n1, s.parser.legacyok, rfl, fun payload hp =>
    ⟨⟨rfl, p0, p1, h0 payload hp, h1 payload hp, bigEndian_toNat p0 p1⟩, rfl⟩⟩

theorem decodeSetChannel_commits (h : decodeSetChannel s = .ok t) :
    Committed (fun payload v l => ChannelRead payload s.settings v ∧ l = s.parser.legacyok) s t := by
  obtain ⟨p0, n0, h0, h⟩ := readPayload_bind_seen h
  cases h
  exact ⟨_, n0, s.parser.legacyok, rfl, fun payload hp => ⟨⟨p0, h0 payload hp, rfl⟩, rfl⟩⟩

theorem decodeSetMode_commits (h : decodeSetMode s = .ok t) :
    Committed (fun payload v l => ModeRead payload s.settings v ∧ l = s.parser.legacyok) s t := by
  obtain ⟨p0, n0, h0, h⟩ := readPayload_bind_seen h
  cases h
  exact ⟨_, n0, s.parser.legacyok, rfl, fun payload hp => ⟨⟨p0, h0 payload hp, rfl⟩, rfl⟩⟩

/-- Where the payload byte was received, each of the reads of that place gives it (R197). -/
theorem SeenAt.eq_of_getElem? {payload : List Byte} {i : Nat} {b b' : Byte} (h : SeenAt payload i b)
    (hb : payload[i]? = some b') : b = b' :=
  Option.some.inj ((h (List.getElem?_eq_some_iff.mp hb).1).symm.trans hb)

/-- The value of R193 from reads that give what was received. -/
theorem powerRead_setPowerValue {payload : List Byte} {p0a p0b p1a p1b p0c : Byte} (old : VtxSettings)
    (h0a : SeenAt payload 0 p0a) (h0b : SeenAt payload 0 p0b) (h1a : SeenAt payload 1 p1a)
    (h1b : SeenAt payload 1 p1b) (h0c : SeenAt payload 0 p0c) :
    PowerRead payload old { old with power := setPowerValue old.chan old.power p0a p0b p1a p1b p0c } := by
  refine ⟨_, rfl, fun b0 b1 hb0 hb1 => ?_, fun b0 hb0 hnot => ?_⟩
  · rw [h0a.eq_of_getElem? hb0, h0b.eq_of_getElem? hb0, h0c.eq_of_getElem? hb0, h1a.eq_of_getElem? hb1,
      h1b.eq_of_getElem? hb1]
    exact ⟨fun hnames => if_pos hnames, fun hnot => if_neg hnot⟩
  · rw [h0a.eq_of_getElem? hb0, h0b.eq_of_getElem? hb0, h0c.eq_of_getElem? hb0]
    have value : setPowerValue old.chan old.power b0 b0 p1a p1b b0 = if p1b = 1#8 then b0 else old.power := if_neg hnot
    rw [value]
    split
    · exact .inl rfl
    · exact .inr rfl

theorem decodeSetPower_commits (h : decodeSetPower s = .ok t) :
    Committed (fun payload v l => PowerRead payload s.settings v ∧ l = s.parser.legacyok) s t := by
  obtain ⟨p0a, n0, h0a, h⟩ := readPayload_bind_seen h
  obtain ⟨p0b, n1, h0b, h⟩ := readPayload_bind_seen h
  obtain ⟨p1a, n2, h1a, h⟩ := readPayload_bind_seen h
  obtain ⟨p1b, n3, h1b, h⟩ := readPayload_bind_seen h
  obtain ⟨p0c, n4, h0c, h⟩ := readPayload_bind_seen h
  cases h
  exact ⟨_, n4, s.parser.legacyok, rfl, fun payload hp => ⟨powerRead_setPowerValue s.settings (h0a payload hp)
    (h0b payload hp) (h1a payload hp) (h1b payload hp) (h0c payload hp), rfl⟩⟩

/-! ## The dispatch -/

/-- What a dispatch of the response with this id makes of settings and `LEGACYOK` (R186 to R194; 10_state.md R32). -/
def ResponseDecoded (id : Byte) (s : State) (payload : List Byte) (v : VtxSettings) (l : Bool) : Prop :=
  SettingsDecoded id payload s.settings v ∧
    (id ∈ [0x02#8, 0x03#8, 0x04#8, 0x05#8] → l = s.parser.legacyok) ∧
    (id ∈ [0x01#8, 0x09#8, 0x11#8] → 6 ≤ payload.length → l = decide (payload[5]? = some s.parser.rxcrc))

theorem Committed.mono {p q : List Byte → VtxSettings → Bool → Prop} (h : Committed p s t)
    (himp : ∀ payload v l, p payload v l → q payload v l) : Committed q s t := by
  obtain ⟨v, n, l, ht, hp⟩ := h
  exact ⟨v, n, l, ht, fun payload hr => himp _ _ _ (hp payload hr)⟩

/-- A dispatch that answers commits what the response's id says, or raises UnknownCommand for any other id, the response
counted (R195, R196). -/
theorem dispatch_inversion (h : dispatch s = .ok t) :
    (s.parser.rxcmd ∈ responseIds ∧ Committed (ResponseDecoded s.parser.rxcmd s) s t) ∨
    (s.parser.rxcmd ∉ responseIds ∧
      t = raise .unknownCommand { s with link := { s.link with recv := s.link.recv + 1#16 } }) := by
  have known : ∀ {id}, s.parser.rxcmd = id → id ∈ responseIds → Committed (ResponseDecoded id s) s t →
      s.parser.rxcmd ∈ responseIds ∧ Committed (ResponseDecoded s.parser.rxcmd s) s t := by
    rintro _ rfl hmem hcommit
    exact ⟨hmem, hcommit⟩
  simp only [dispatch, beq_iff_eq] at h
  split_ifs at h with h01 h09 h11 h04 h03 h02 h05
  · exact .inl (known h01 (by decide) ((decodeGetSettings_commits h).mono fun _ _ _ ⟨hset, hleg⟩ =>
      ⟨⟨fun _ => hset, nofun, nofun, nofun, nofun, nofun, nofun⟩, nofun, fun _ => hleg⟩))
  · exact .inl (known h09 (by decide) ((decodeGetSettings_commits h).mono fun _ _ _ ⟨hset, hleg⟩ =>
      ⟨⟨nofun, fun _ => hset, nofun, nofun, nofun, nofun, nofun⟩, nofun, fun _ => hleg⟩))
  · exact .inl (known h11 (by decide) ((decodeGetSettings_commits h).mono fun _ _ _ ⟨hset, hleg⟩ =>
      ⟨⟨nofun, nofun, fun _ => hset, nofun, nofun, nofun, nofun⟩, nofun, fun _ => hleg⟩))
  · exact .inl (known h04 (by decide) ((decodeSetFrequency_commits h).mono fun _ _ _ ⟨hset, hleg⟩ =>
      ⟨⟨nofun, nofun, nofun, fun _ => hset, nofun, nofun, nofun⟩, fun _ => hleg, nofun⟩))
  · exact .inl (known h03 (by decide) ((decodeSetChannel_commits h).mono fun _ _ _ ⟨hset, hleg⟩ =>
      ⟨⟨nofun, nofun, nofun, nofun, fun _ => hset, nofun, nofun⟩, fun _ => hleg, nofun⟩))
  · exact .inl (known h02 (by decide) ((decodeSetPower_commits h).mono fun _ _ _ ⟨hset, hleg⟩ =>
      ⟨⟨nofun, nofun, nofun, nofun, nofun, fun _ => hset, nofun⟩, fun _ => hleg, nofun⟩))
  · exact .inl (known h05 (by decide) ((decodeSetMode_commits h).mono fun _ _ _ ⟨hset, hleg⟩ =>
      ⟨⟨nofun, nofun, nofun, nofun, nofun, nofun, fun _ => hset⟩, fun _ => hleg, nofun⟩))
  · cases h
    refine .inr ⟨?_, rfl⟩
    simp only [responseIds, List.mem_cons, List.not_mem_nil, or_false, not_or]
    exact ⟨h01, h02, h03, h04, h05, h09, h11⟩

/-- The dispatch of a frame that was received answers. -/
theorem PayloadReceived.dispatch_ok {payload : List Byte} (hp : PayloadReceived s.parser payload) :
    ∃ t, dispatch s = .ok t := by
  obtain ⟨t, ht⟩ := (dispatch_noFault hp.received).completes
  exact ⟨t, toOutcome_eq_next.mp ht⟩

theorem PayloadReceived.dispatch_known {payload : List Byte} (hp : PayloadReceived s.parser payload)
    (hid : s.parser.rxcmd ∈ responseIds) :
    ∃ v n l, dispatch s = .ok (commit v { s with draws := n, parser := { s.parser with legacyok := l } }) ∧
      ResponseDecoded s.parser.rxcmd s payload v l := by
  obtain ⟨t, ht⟩ := hp.dispatch_ok
  rcases dispatch_inversion ht with ⟨-, v, n, l, rfl, hdecoded⟩ | ⟨hnot, -⟩
  · exact ⟨v, n, l, ht, hdecoded payload hp⟩
  · exact absurd hid hnot

theorem PayloadReceived.dispatch_unknown {payload : List Byte} (hp : PayloadReceived s.parser payload)
    (hid : s.parser.rxcmd ∉ responseIds) :
    dispatch s = .ok (raise .unknownCommand { s with link := { s.link with recv := s.link.recv + 1#16 } }) := by
  obtain ⟨t, ht⟩ := hp.dispatch_ok
  rcases dispatch_inversion ht with ⟨hmem, -⟩ | ⟨-, rfl⟩
  · exact absurd hmem hid
  · exact ht

end

end Sys2Proof.Machine
end

section
/-! A whole response frame, queued before the parse or arriving during it (43_frame_parser.md R180 to R201): the state
that each outcome leaves, and the eight response rows. -/

namespace Sys2Proof.Machine

/-! ## The frame taken -/

section
variable {s : State} {id : Byte} {payload : List Byte}

theorem frameTaken_read (stage : PState) (n : Nat) (a : Nat) : (frameTaken stage n id payload s).parser.pb.read a =
    if a < payload.length then payload[a]? else s.parser.pb.read a := by
  simp [frameTaken, Memory.read_writeRange]

theorem dispatching_received (n : Nat) (hlen : payload.length ≤ 255) :
    PayloadReceived (dispatching n id payload s).parser payload where
  rxlen := toNat_ofNat_length hlen
  bytes i hi := (frameTaken_read (lastStage id) n i).trans (if_pos hi)

/-- After its two magic bytes every response frame is the same to the search. -/
theorem responseOfId_eq_cons (id : Byte) (payload : List Byte) :
    ∃ rest, responseOfId id payload = 0xAA#8 :: 0x55#8 :: rest := by
  cases hid : isLegacyId id <;> exact ⟨_, by rw [responseOfId, hid]; rfl⟩

/-- A success outside an exchange leaves the sequencer alone (R196). -/
theorem commit_standalone {v : VtxSettings} (h : s.seq.xstate.running = false) :
    commit v s = { s with
      settings := v, link := { s.link with recv := s.link.recv + 1#16 }, parser := { s.parser with pstate := .idle },
      task := .idle, results := s.results ++ [⟨.ok, 0#16⟩] } := by
  simp [commit, h]

/-- The dispatch as the last micro-step of a run. -/
theorem runOn_dispatch {e t : State} (ht : s.task = .dispatch)
    (h : dispatch (s.within { e with inputs := [] }) = .ok t) :
    runOn [.poll true] (s.within e) = .next t :=
  (runOn_one_poll true _).trans (congrArg toOutcome
    ((microStep_dispatch (s := s.within { e with inputs := [] }) (some true) ht).trans h))

end

/-- Settles O39: the parse takes the frame to its dispatch, and one micro-step more is the dispatch. -/
theorem parseDecodesQueuedResponse : Obligations.ParseDecodesQueuedResponse := by
  intro s id payload before rest ha hid hlen hbefore hq hno
  obtain ⟨hstopped, hidle⟩ := (accepting_iff s).mp ha
  obtain ⟨more, hmore⟩ := responseOfId_eq_cons id payload
  have hno' : ∀ j, j < before.length → ¬ MagicAt (before ++ 0xAA#8 :: 0x55#8 :: (more ++ rest)) j := by
    simpa [hmore] using hno
  have frame := (parseBegun_begun Config.rxTimeout s).parses_responseOfId (id := id) hlen hbefore hno'
  obtain ⟨q, hrun, hrest, hbuf⟩ := frame.runOn_polls (e := s) hq [.poll true]
  obtain ⟨v, n, l, hdispatch, hset, hleg, hcheck⟩ := PayloadReceived.dispatch_known
    (s := (dispatching before.length id payload (startParse s)).within { s with queue := q, inputs := [] })
    (dispatching_received before.length hlen) hid
  have hpolls : polls (before.length + (responseOfId id payload).length + 1) =
      polls (before ++ responseOfId id payload).length ++ [.poll true] := by
    rw [List.length_append]; exact List.replicate_succ'
  rw [commit_standalone] at hdispatch
  swap
  · exact hstopped
  have whole := (runOn_fpParse_polls ha _).trans
    ((congrArg (runOn · _) hpolls).trans (hrun.trans (runOn_dispatch (e := { s with queue := q }) rfl hdispatch)))
  refine ⟨_, whole, hrest.congr rfl rfl, hbuf, hset, ?_, hleg, hcheck,
    frameTaken_read (id := id) (lastStage id) before.length⟩
  rw [hidle]
  rfl

end Sys2Proof.Machine
end

section
/-! The eight response rows (43_frame_parser.md R187 to R195; entry 12): the frame arrives at an empty queue, each byte
taken at once, and its last byte or the dispatch after it ends the parse. -/

namespace Sys2Proof.Machine

/-! ## The arrival of a frame -/

section
variable {s t : State} {frame : List Byte}

theorem ReadyForFrame.begun (h : ReadyForFrame s) :
    ∃ tmo, (if accepting s then startParse s else s) = parseBegun tmo s := by
  by_cases ha : accepting s = true
  · exact ⟨Config.rxTimeout, if_pos ha⟩
  · exact ⟨s.transport.tmo, (if_neg ha).trans (h.ready.resolve_left ha).eq_parseBegun⟩

/-- Once the bytes of a frame are fed, a parse that has come to its dispatch takes it. -/
theorem receiveFrame_of_feed (h : feed frame (if accepting s then startParse s else s) = .ok t) :
    receiveFrame frame s = if t.task = .dispatch then dispatch t else .ok t := by
  simp only [receiveFrame, h]
  split
  · next ht => exact microStep_dispatch none ht
  · rfl

/-- A frame whose bytes bring the parse from its beginning to `t` arrives, and is dispatched where `t` says so. -/
theorem ReadyForFrame.receiveFrame_eq (h : ReadyForFrame s) (hp : ∀ tmo, Parses frame (parseBegun tmo s) t) :
    ∃ e, PassedThrough frame.length s e ∧
      receiveFrame frame s = if t.task = .dispatch then dispatch (t.within e) else .ok (t.within e) := by
  obtain ⟨tmo, hbegun⟩ := h.begun
  obtain ⟨e, hfeed, -, hpassed⟩ := (hp tmo).feed_eq h.queue
  exact ⟨e, hpassed, receiveFrame_of_feed (by rw [hbegun]; exact hfeed)⟩

end

/-! ## What every outcome leaves -/

section
variable {s e : State} {id : Byte} {payload : List Byte}

/-- The registers that `FrameConsumed` speaks of do not depend on how the parse ended. -/
theorem PassedThrough.frameConsumed {n : Nat} (h : PassedThrough n s e) (stage : PState)
    (l : Bool) (v : VtxSettings) (k : LinkState) (q : SequencerState) (r : List PortResult) (d : Nat) :
    FrameConsumed n id payload s { (frameTaken stage 0 id payload (startParse s)).within e with
      parser := { (frameTaken stage 0 id payload (startParse s)).parser with pstate := .idle, legacyok := l }
      settings := v, link := k, seq := q, task := .idle, results := r, draws := d } where
  queue_not_full := (QueueState.isEmpty_iff.mp (h.queued.isEmpty_iff.mpr rfl)).1
  queue_head := h.head
  queue_tail := h.tail
  queue_frame := h.frame
  crcacc := rfl
  builder := rfl
  txdone := rfl
  txidx := rfl
  tmo := rfl
  pstate := rfl
  ndisc := rfl
  haveaa := rfl
  rxcmd := rfl
  rxlen := rfl
  rxcrc := rfl
  pidx := rfl
  pb := frameTaken_read (id := id) stage 0
  task := rfl
  params := h.params
  inputs := h.inputs
  outputs := h.outputs
  readouts := rfl

theorem length_responseOfId (hid : isLegacyId id = false) :
    (responseOfId id payload).length = payload.length + 5 := by
  rw [responseOfId, hid]
  simp [responseFrame, legacyFrame]

/-- A frame of any id with its right CRC is dispatched. -/
theorem ReadyForFrame.dispatches (h : ReadyForFrame s) (hlen : payload.length ≤ 255) :
    ∃ e, PassedThrough (responseOfId id payload).length s e ∧
      receiveFrame (responseOfId id payload) s = dispatch ((dispatching 0 id payload (startParse s)).within e) := by
  obtain ⟨e, hpassed, hreceive⟩ := h.receiveFrame_eq (t := dispatching 0 id payload (startParse s)) fun tmo =>
    (parseBegun_begun tmo s).parses_responseOfId (before := []) (rest := []) hlen (Nat.zero_le _) nofun
  exact ⟨e, hpassed, hreceive.trans (if_pos rfl)⟩

/-- A response of any of the seven ids is a Success: its settings decoded, the response counted (R186, R196). -/
theorem ReadyForFrame.receive_known (h : ReadyForFrame s) (hlen : payload.length ≤ 255) (hid : id ∈ responseIds) :
    ∃ t, receiveFrame (responseOfId id payload) s = .ok t ∧
      FrameConsumed (responseOfId id payload).length id payload s t ∧ SettingsDecoded id payload s.settings t.settings ∧
      t.link = { s.link with recv := s.link.recv + 1#16 } ∧ Succeeded s t ∧
      (id ∈ [0x02#8, 0x03#8, 0x04#8, 0x05#8] → t.parser.legacyok = s.parser.legacyok) ∧
      (id ∈ [0x01#8, 0x09#8, 0x11#8] → 6 ≤ payload.length →
        t.parser.legacyok = decide (payload[5]? = some (responseCrc id payload))) := by
  obtain ⟨e, hpassed, hreceive⟩ := h.dispatches (id := id) hlen
  obtain ⟨v, n, l, hdispatch, hset, hleg, hcheck⟩ := PayloadReceived.dispatch_known
    (s := (dispatching 0 id payload (startParse s)).within e) (dispatching_received 0 hlen) hid
  exact ⟨_, hreceive.trans hdispatch, hpassed.frameConsumed _ l v _ _ _ n, hset, rfl, ⟨rfl, rfl⟩, hleg, hcheck⟩

end

/-! ## The rows -/

/-- Settles O40: the three rows are the frames of their ids, each by `ReadyForFrame.receive_known`. -/
theorem getSettingsResponses : Obligations.GetSettingsResponses := by
  intro s payload h hlen row hrow
  simp only [List.mem_cons, List.not_mem_nil, or_false] at hrow
  obtain rfl | rfl | rfl := hrow
  · obtain ⟨t, ht, hframe, ⟨hset, -⟩, hlink, hok, -, hcheck⟩ := h.receive_known (id := 0x01#8) hlen (by decide)
    exact ⟨t, congrArg toOutcome ht, hframe, hset rfl, hlink, hok, hcheck (by decide)⟩
  · obtain ⟨t, ht, hframe, ⟨-, hset, -⟩, hlink, hok, -, hcheck⟩ := h.receive_known (id := 0x09#8) hlen (by decide)
    exact ⟨t, congrArg toOutcome ht, hframe, hset rfl, hlink, hok, hcheck (by decide)⟩
  · obtain ⟨t, ht, hframe, ⟨-, -, hset, -⟩, hlink, hok, -, hcheck⟩ := h.receive_known (id := 0x11#8) hlen (by decide)
    exact ⟨t, congrArg toOutcome ht, hframe, hset rfl, hlink, hok, hcheck (by decide)⟩

/-- Settles O41: each row is the frame of its id, and its decode the id's case of `SettingsDecoded`. -/
theorem singleFieldResponses : Obligations.SingleFieldResponses := by
  intro s payload h hlen
  refine ⟨?_, ?_, ?_⟩
  · obtain ⟨t, ht, hframe, ⟨-, -, -, hset, -⟩, hlink, hok, hleg, -⟩ :=
      h.receive_known (id := 0x04#8) hlen (by decide)
    exact ⟨t, congrArg toOutcome ht, length_responseOfId (id := 0x04#8) rfl ▸ hframe, hset rfl, hlink, hok,
      hleg (by decide)⟩
  · obtain ⟨t, ht, hframe, ⟨-, -, -, -, hset, -⟩, hlink, hok, hleg, -⟩ :=
      h.receive_known (id := 0x03#8) hlen (by decide)
    exact ⟨t, congrArg toOutcome ht, length_responseOfId (id := 0x03#8) rfl ▸ hframe, hset rfl, hlink, hok,
      hleg (by decide)⟩
  · obtain ⟨t, ht, hframe, ⟨-, -, -, -, -, -, hset⟩, hlink, hok, hleg, -⟩ :=
      h.receive_known (id := 0x05#8) hlen (by decide)
    exact ⟨t, congrArg toOutcome ht, length_responseOfId (id := 0x05#8) rfl ▸ hframe, hset rfl, hlink, hok,
      hleg (by decide)⟩

/-- Settles O42: as O41, with the three cases of R193 in `powerRead_setPowerValue`. -/
theorem setPowerResponse : Obligations.SetPowerResponse := by
  intro s payload h hlen
  obtain ⟨t, ht, hframe, ⟨-, -, -, -, -, hset, -⟩, hlink, hok, hleg, -⟩ :=
    h.receive_known (id := 0x02#8) hlen (by decide)
  exact ⟨t, congrArg toOutcome ht, length_responseOfId (id := 0x02#8) rfl ▸ hframe, hset rfl, hlink, hok,
    hleg (by decide)⟩

/-- The two ids without trailing CRC are among the seven (R96, R100). -/
theorem isLegacyId_of_not_mem {id : Byte} (hid : id ∉ responseIds) : isLegacyId id = false := by
  simp only [responseIds, List.mem_cons, List.not_mem_nil, or_false, not_or] at hid
  obtain ⟨h01, -, -, -, -, h09, -⟩ := hid
  simpa [isLegacyId, Config.cmdGetSettings, Config.cmdGetSettingsV2] using ⟨h01, h09⟩

/-- Settles O43: the dispatch of an id that is none of the seven. -/
theorem unknownResponse : Obligations.UnknownResponse := by
  intro s rcmd payload h hlen hid
  have hlegacy := isLegacyId_of_not_mem hid
  obtain ⟨e, hpassed, hreceive⟩ := h.dispatches (id := rcmd) hlen
  rw [length_responseOfId hlegacy] at hpassed
  have hdispatch := PayloadReceived.dispatch_unknown (s := (dispatching 0 rcmd payload (startParse s)).within e)
    (dispatching_received 0 hlen) hid
  have hframe : responseOfId rcmd payload = responseFrame rcmd payload (responseCrc rcmd payload) := by
    rw [responseOfId, hlegacy]; rfl
  rw [hframe] at hreceive
  exact ⟨_, congrArg toOutcome (hreceive.trans hdispatch), hpassed.frameConsumed _ _ _ _ _ _ _, rfl, rfl,
    ⟨rfl, rfl⟩, rfl⟩

/-- What encodes to a response frame receives that frame. -/
theorem exec_of_encode_rsp {i : Instr} {frame : List Byte} (h : encode i = .rsp frame) (s : State) :
    exec i s = toOutcome (receiveFrame frame s) := by
  cases i <;> cases h <;> rfl

/-- Settles O44: the CRC byte ends the parse, and there is no dispatch. -/
theorem wrongCrcResponses : Obligations.WrongCrcResponses := by
  intro s rcmd crc payload i h hlen hi _ h01 h09 hcrc
  have hlegacy : isLegacyId rcmd = false := by
    simpa [isLegacyId, Config.cmdGetSettings, Config.cmdGetSettingsV2] using ⟨h01, h09⟩
  obtain ⟨e, hpassed, hreceive⟩ := h.receiveFrame_eq
    (t := raise .crcMismatch (frameTaken .crc 0 rcmd payload (startParse s))) fun tmo =>
      crcStageByte_wrong 0 hcrc ▸ (parseBegun_begun tmo s).parses_responseFrame hlen hlegacy crc
  have hlength : (responseFrame rcmd payload crc).length = payload.length + 5 := by simp [responseFrame, legacyFrame]
  rw [hlength] at hpassed
  exact ⟨_, (exec_of_encode_rsp hi s).trans (congrArg toOutcome hreceive), hpassed.frameConsumed _ _ _ _ _ _ _,
    rfl, rfl, ⟨rfl, rfl⟩, rfl, rfl⟩

/-! ## A row as a run -/

/-- A frame that encodes a response row is one of format RSPL or RSP (30_encoding.md R94, R96). -/
theorem responseFrame_of_encode {i : Instr} {frame : List Byte} (h : encode i = .rsp frame) (hwf : i.wf = true) :
    ∃ id payload, payload.length ≤ 255 ∧ ((isLegacyId id = true ∧ frame = legacyFrame id payload) ∨
      (isLegacyId id = false ∧ ∃ crc, frame = responseFrame id payload crc)) := by
  cases i with
  | rspGetSettings p | rspGetSettingsV2 p => cases h; exact ⟨_, p, of_decide_eq_true hwf, .inl ⟨rfl, rfl⟩⟩
  | rspSetPower p crc | rspSetChannel p crc | rspSetFrequency p crc | rspSetMode p crc | rspGetSettingsV21 p crc =>
    cases h; exact ⟨_, p, of_decide_eq_true hwf, .inr ⟨rfl, crc, rfl⟩⟩
  | rspUnknown id p crc =>
    cases h
    simp only [Instr.wf, Bool.and_eq_true, Bool.not_eq_true'] at hwf
    exact ⟨id, p, of_decide_eq_true hwf.1, .inr ⟨isLegacyId_of_not_commandId hwf.2, crc, rfl⟩⟩
  | _ => cases h

/-- The last byte of a response row's frame brings the parse to its dispatch or ends it. -/
theorem parses_response_row {i : Instr} {frame : List Byte} (h : encode i = .rsp frame) (hwf : i.wf = true)
    (s : State) : ∃ t, Parses frame (startParse s) t ∧ (t.task = .dispatch ∨ t.task = .idle) := by
  have begun := parseBegun_begun Config.rxTimeout s
  obtain ⟨id, payload, hlen, ⟨hid, rfl⟩ | ⟨hid, crc, rfl⟩⟩ := responseFrame_of_encode h hwf
  · refine ⟨_, begun.parses_frame (before := []) (rest := []) hlen (Nat.zero_le _) nofun, .inl ?_⟩
    rw [endPayload_legacy _ hid]
  · refine ⟨_, begun.parses_responseFrame hlen hid crc, ?_⟩
    rcases crcStageByte_cases crc (frameTaken .crc 0 id payload (startParse s)) with ⟨-, e⟩ | ⟨-, e⟩
    · exact .inl (congrArg State.task e)
    · exact .inr (congrArg State.task e)

/-- Settles O45: `Parses.feed_eq` feeds the same bytes as a row and as a run; the last micro-step is the dispatch, or
finds no operation in progress. -/
theorem responseRowIsItsRun : Obligations.ResponseRowIsItsRun := by
  intro s i first more ha hq hin hi hwf
  obtain ⟨t, hparse, htask⟩ := parses_response_row hi hwf s
  obtain ⟨e, hfeed, hrun, hpassed⟩ := hparse.feed_eq (e := s) hq
  have hrow : exec i s = toOutcome (if t.task = .dispatch then dispatch (t.within e) else .ok (t.within e)) :=
    (exec_of_encode_rsp hi s).trans (congrArg toOutcome (receiveFrame_of_feed (by rw [if_pos ha]; exact hfeed)))
  have hfirst : ∀ rest, runOn (given (.evRx first) :: given .fpParse :: rest) s =
      runOn (given (.evRx first) :: .poll true :: rest) (startParse s) := fun rest => by
    rw [runOn_evRx, runOn_fpParse (s := receiveEvent first s) ha, runOn_evRx]
    rfl
  have hlast : runOn [.poll true] (t.within e) = toOutcome (microStep (some true) (t.within e)) := by
    have hinputs : { e with inputs := [] } = e := by rw [← hin, ← hpassed.inputs]
    exact (runOn_one_poll true _).trans (congrArg (fun e => toOutcome (microStep (some true) (t.within e))) hinputs)
  calc exec i s = toOutcome (microStep (some true) (t.within e)) := by
        rw [hrow]
        rcases htask with ht | ht
        · rw [if_pos ht, microStep_dispatch (s := t.within e) _ ht]
        · rw [if_neg (by simp [ht]), microStep_idle (s := t.within e) _ ht]
    _ = runOn (arrivalsPolled (first :: more) ++ [.poll true]) (startParse s) := ((hrun _).trans hlast).symm
    _ = _ := (hfirst _).symm

end Sys2Proof.Machine
end

section
/-! Where the settings change (10_state.md R33, 43_frame_parser.md R196): in the commit of a dispatch, nowhere else. -/

namespace Sys2Proof.Machine

/-! ## The operations that leave the settings alone -/

section
variable {s t : State}

theorem failedPoll_settings (s : State) : (failedPoll s).settings = s.settings := by
  rcases failedPoll_cases s with ⟨-, e⟩ | ⟨-, e⟩ <;> simp [e]

theorem failedReadyPoll_settings (s : State) : (failedReadyPoll s).settings = s.settings := by
  rcases failedReadyPoll_cases s with ⟨-, e⟩ | ⟨-, e⟩ <;> simp [e]

theorem pollQueue_settings {onByte : Byte → State → Except Fault State} (h : pollQueue s onByte = .ok t)
    (use : ∀ v u, onByte v u = .ok t → t.settings = u.settings) : t.settings = s.settings := by
  rcases pollQueue_cases h with ⟨-, rfl⟩ | ⟨v, -, -, hv⟩
  · exact failedPoll_settings s
  · exact (use v _ hv).trans rfl

theorem recvByte_settings {v : Byte} (h : recvByte v s = .ok t) : t.settings = s.settings := by cases h; rfl

theorem expectByte_settings {v b : Byte} (h : expectByte v b s = .ok t) : t.settings = s.settings := by cases h; rfl

theorem nextSendByte_settings (s : State) : (nextSendByte s).settings = s.settings := by
  rcases nextSendByte_cases s with ⟨-, e⟩ | ⟨-, e⟩
  · rw [e]; rfl
  · rw [e]
    rcases endSend_cases s with ⟨-, e'⟩ | ⟨-, e'⟩ <;> simp [e']

theorem sendWaitPoll_settings (s : State) : (sendWaitPoll s).settings = s.settings := by
  rcases sendWaitPoll_cases s with ⟨-, e⟩ | ⟨-, e⟩
  · rw [e, nextSendByte_settings]; rfl
  · rw [e, failedPoll_settings]

theorem sendBytePoll_settings {ready : Option Bool} (h : sendBytePoll ready s = .ok t) : t.settings = s.settings := by
  obtain ⟨u, hu, hcases⟩ := sendBytePoll_cases h
  have hdraw : u.settings = s.settings := by rcases hu with rfl | rfl <;> rfl
  rcases hcases with ⟨b, -, rfl⟩ | rfl
  · exact (nextSendByte_settings _).trans hdraw
  · exact (failedReadyPoll_settings u).trans hdraw

theorem echoMatched_settings (i : BitVec 9) (s : State) : (echoMatched i s).settings = s.settings := by
  rcases echoMatched_cases i s with ⟨-, e⟩ | ⟨-, e⟩
  · rw [e]; rfl
  · rw [e]
    rcases endEcho_cases { s with seq := { s.seq with eidx := i } } with ⟨-, e'⟩ | ⟨-, e'⟩ <;> simp [e']

theorem echoByte_settings {b : Byte} (h : echoByte b s = .ok t) : t.settings = s.settings := by
  rcases echoByte_cases h with ⟨-, -, rfl⟩ | ⟨-, -, -, rfl⟩ | ⟨-, -, -, rfl⟩ | ⟨-, -, rfl⟩ | ⟨-, -, rfl⟩
  · exact echoMatched_settings _ s
  · exact echoMatched_settings _ s
  · rfl
  · exact echoMatched_settings _ s
  · rfl

theorem nextPayload_settings (s : State) : (nextPayload s).settings = s.settings := by
  rcases nextPayload_cases s with ⟨-, e⟩ | ⟨-, e⟩
  · rw [e]; rfl
  · rw [e]
    rcases endPayload_cases s with ⟨-, e'⟩ | ⟨-, e'⟩ <;> simp [e']

theorem syncByte_settings (b : Byte) (s : State) : (syncByte b s).settings = s.settings := by
  rcases syncByte_cases b s with ⟨-, -, e⟩ | ⟨-, n, -, ⟨-, e⟩ | ⟨-, e⟩⟩ <;> simp [e]

theorem crcStageByte_settings (b : Byte) (s : State) : (crcStageByte b s).settings = s.settings := by
  rcases crcStageByte_cases b s with ⟨-, e⟩ | ⟨-, e⟩ <;> simp [e]

theorem parseByte_settings {b : Byte} (h : parseByte b s = .ok t) : t.settings = s.settings := by
  cases h
  match s.parser.pstate with
  | .idle | .sync => exact syncByte_settings b s
  | .cmd => rfl
  | .len | .pay => exact nextPayload_settings _
  | .crc => exact crcStageByte_settings b s

theorem baudStep_settings (s : State) : (baudStep s).settings = s.settings := by
  rcases baudStep_cases s with ⟨-, e⟩ | ⟨-, -, e⟩ | ⟨-, -, e⟩ <;> simp [e]

/-! ## The micro-step that commits -/

/-- A micro-step that commits settings: the dispatch of a response reports Success and counts it, and the operation ends
(R196, 45_transport_exchange.md R286). -/
structure SettingsCommit (s t : State) : Prop where
  dispatched : s.task = .dispatch
  ended : t.task = .idle
  succeeded : Succeeded s t
  link : t.link = { s.link with recv := s.link.recv + 1#16 }
  micro : ∃ ready, microStep ready s = .ok t

/-- Whatever a micro-step does, only a commit changes the settings. -/
theorem microStep_settings {ready : Option Bool} (h : microStep ready s = .ok t) :
    t.settings = s.settings ∨ SettingsCommit s t := by
  match ht : s.task with
  | .idle => rw [microStep_idle ready ht] at h; cases h; exact .inl rfl
  | .clearQueue => rw [microStep_clearQueue ready ht] at h; cases h; exact .inl rfl
  | .stepBaud => rw [microStep_stepBaud ready ht] at h; cases h; exact .inl (baudStep_settings s)
  | .countSent => rw [microStep_countSent ready ht] at h; cases h; exact .inl rfl
  | .sendWait => rw [microStep_sendWait ready ht] at h; cases h; exact .inl (sendWaitPoll_settings s)
  | .sendByte => rw [microStep_sendByte ready ht] at h; exact .inl (sendBytePoll_settings h)
  | .recv => rw [microStep_recv ready ht] at h; exact .inl (pollQueue_settings h fun _ _ => recvByte_settings)
  | .expect v => rw [microStep_expect ready ht] at h; exact .inl (pollQueue_settings h fun _ _ => expectByte_settings)
  | .echo => rw [microStep_echo ready ht] at h; exact .inl (pollQueue_settings h fun _ _ => echoByte_settings)
  | .parse => rw [microStep_parse ready ht] at h; exact .inl (pollQueue_settings h fun _ _ => parseByte_settings)
  | .dispatch =>
    have hd := (microStep_dispatch ready ht).symm.trans h
    rcases dispatch_inversion hd with ⟨-, v, n, l, rfl, -⟩ | ⟨-, rfl⟩
    · exact .inr ⟨ht, rfl, ⟨rfl, rfl⟩, rfl, ready, h⟩
    · exact .inl rfl

/-! ## The instructions -/

theorem execQPop_settings (h : execQPop s = .next t) : t.settings = s.settings := by
  refine request_keeps (P := fun t => t.settings = s.settings) h rfl fun _ hb => ?_
  split at hb
  · cases hb
  · next hpop =>
    cases hb
    rcases pop_cases hpop with ⟨-, -, rfl⟩ | ⟨w, -, -, -, rfl⟩ <;> rfl
  · next hpop =>
    cases hb
    rcases pop_cases hpop with ⟨-, -, rfl⟩ | ⟨w, -, -, -, rfl⟩ <;> rfl

theorem finishBuild_settings {cmd : Byte} (h : finishBuild (buildFrame cmd s) = .ok t) : t.settings = s.settings := by
  obtain ⟨u, hu, rfl⟩ := finishBuild_cases h
  obtain ⟨payload, -, rfl⟩ := buildFrame_cases hu
  rfl

theorem execFbBuild_settings {cmd : Byte} (h : execFbBuild cmd s = .next t) : t.settings = s.settings :=
  request_keeps (P := fun t => t.settings = s.settings) h rfl fun _ hb => finishBuild_settings hb

theorem buildRequest_settings {cmd : Byte} {payload : List Byte} (h : buildRequest cmd payload s = .next t) :
    t.settings = s.settings := by
  refine request_keeps (P := fun t => t.settings = s.settings) h rfl fun _ hb => ?_
  split at hb
  · exact finishBuild_settings (s := loadPayload payload s) hb
  · cases hb; rfl

theorem execTSend_settings (h : execTSend s = .next t) : t.settings = s.settings := by
  refine request_keeps (P := fun t => t.settings = s.settings) h rfl fun _ hb => ?_
  split at hb
  · cases hb; rfl
  · cases hb; exact sendWaitPoll_settings (startSend s)

theorem execXEcho_settings (h : execXEcho s = .next t) : t.settings = s.settings := by
  refine request_keeps (P := fun t => t.settings = s.settings) h rfl fun _ hb => ?_
  split at hb
  · cases hb; rfl
  · exact pollQueue_settings (s := startEcho s) hb fun _ _ => echoByte_settings

/-- An accepted request that polls the queue at once. -/
theorem pollRequest_settings {begin : State → State} {onByte : Byte → State → Except Fault State}
    (h : request s (fun s => pollQueue (begin s) onByte) = .next t) (hbegin : (begin s).settings = s.settings)
    (use : ∀ v u, onByte v u = .ok t → t.settings = u.settings) : t.settings = s.settings :=
  request_keeps (P := fun t => t.settings = s.settings) h rfl fun _ hb => (pollQueue_settings hb use).trans hbegin

/-- An accepted request that does all it does in one transition. -/
theorem atomicRequest_settings {body : State → Except Fault State} {v : Half} {u : State}
    (h : request s body = .next t) (hbody : body s = .ok (finish v u)) (hu : u.settings = s.settings) :
    t.settings = s.settings :=
  request_keeps (P := fun t => t.settings = s.settings) h rfl fun _ hb => by
    cases hbody.symm.trans hb
    exact hu

theorem execXCmd_settings {cmd : Byte} (h : execXCmd cmd s = .next t) : t.settings = s.settings := by
  refine request_keeps (P := fun t => t.settings = s.settings) h rfl fun _ hb => ?_
  obtain ⟨payload, -, rfl⟩ := buildFrame_cases hb
  rfl

/-- No instruction but a response row writes the settings. -/
theorem exec_settings {i : Instr} (hi : ∀ frame, encode i ≠ .rsp frame) (h : exec i s = .next t) :
    t.settings = s.settings := by
  cases i with
  | qPop => exact execQPop_settings h
  | qAvail | qClear | crcInit | crcUpd b | brReconf =>
    simp only [exec, execQAvail, execQClear, execCrcInit, execCrcUpd, execBrReconf] at h
    exact atomicRequest_settings h rfl rfl
  | brStep =>
    simp only [exec, execBrStep] at h
    exact atomicRequest_settings h rfl (baudStep_settings s)
  | fbBuild cmd => exact execFbBuild_settings h
  | tSend => exact execTSend_settings h
  | tRecv =>
    simp only [exec, execTRecv] at h
    exact pollRequest_settings (begin := fun s => { loadRxTimeout s with task := .recv }) h rfl
      fun _ _ => recvByte_settings
  | tExpect v =>
    simp only [exec, execTExpect] at h
    exact pollRequest_settings (begin := fun s => { loadRxTimeout s with task := .expect v }) h rfl
      fun _ _ => expectByte_settings
  | xEcho => exact execXEcho_settings h
  | fpParse =>
    simp only [exec, execFpParse] at h
    exact pollRequest_settings (begin := startParse) h rfl fun _ _ => parseByte_settings
  | xCmd cmd => exact execXCmd_settings h
  | reserved0 | reservedF | evRx b | evTxc => cases h; rfl
  | reqGetSettings p | reqSetPower p | reqSetChannel p | reqSetFrequency p | reqSetMode p | reqGetSettingsV2 p
  | reqGetSettingsV21 p => exact buildRequest_settings h
  | rspGetSettings p | rspGetSettingsV2 p => exact absurd rfl (hi _)
  | rspSetPower p crc | rspSetChannel p crc | rspSetFrequency p crc | rspSetMode p crc | rspGetSettingsV21 p crc =>
    exact absurd rfl (hi _)
  | rspUnknown rcmd p crc => exact absurd rfl (hi _)

/-! ## The response rows -/

/-- One transition of this chain commits the settings that its end has, the others leave them alone. -/
def CommitsWithin (s t : State) : Prop :=
  ∃ u v, Relation.ReflTransGen RowMove s u ∧ Relation.ReflTransGen RowMove v t ∧ u.settings = s.settings ∧
    v.settings = t.settings ∧ SettingsCommit u v

theorem CommitsWithin.after {r : State} (h : CommitsWithin s t) (moves : Relation.ReflTransGen RowMove r s)
    (hset : s.settings = r.settings) : CommitsWithin r t := by
  obtain ⟨u, v, before, after, hu, hv, hcommit⟩ := h
  exact ⟨u, v, moves.trans before, after, hu.trans hset, hv, hcommit⟩

/-- With no operation in progress arriving bytes change no setting and begin none. -/
theorem feed_idle {bytes : List Byte} (ht : s.task = .idle) (h : feed bytes s = .ok t) :
    t.task = .idle ∧ t.settings = s.settings :=
  feed_keeps (P := fun u => u.task = .idle ∧ u.settings = s.settings) (fun _ _ hu => hu)
    (fun u v hu hm => by rw [microStep_idle none hu.1] at hm; cases hm; exact hu) ⟨ht, rfl⟩ h

/-- The bytes of a row commit settings at most once, and the parse has ended then. -/
theorem feed_settings {bytes : List Byte} (h : feed bytes s = .ok t) :
    t.settings = s.settings ∨ (t.task = .idle ∧ CommitsWithin s t) := by
  induction bytes generalizing s with
  | nil => cases h; exact .inl rfl
  | cons b rest ih =>
    obtain ⟨u, hm, hrest⟩ := feed_cons_cases h
    rcases microStep_settings hm with hsame | hcommit
    · have moves : Relation.ReflTransGen RowMove s u :=
        .head (.arrival b s) (.single (.micro none _ u hm))
      exact (ih hrest).imp (·.trans hsame) (And.imp_right (·.after moves hsame))
    · obtain ⟨hidle, hset⟩ := feed_idle hcommit.ended hrest
      exact .inr ⟨hidle, _, u, .single (.arrival b s), feed_moves hrest, rfl, hset.symm, hcommit⟩

/-- A response row that changes the settings commits them in one of its transitions. -/
theorem receiveFrame_settings {frame : List Byte} (h : receiveFrame frame s = .ok t) (hne : t.settings ≠ s.settings) :
    CommitsWithin s t := by
  simp only [receiveFrame] at h
  obtain ⟨r, hr, moves, hset⟩ : ∃ r, (if accepting s then startParse s else s) = r ∧
      Relation.ReflTransGen RowMove s r ∧ r.settings = s.settings := by
    split
    · next ha => exact ⟨_, rfl, .single (.parseBegins s ha), rfl⟩
    · exact ⟨s, rfl, .refl, rfl⟩
  rw [hr] at h
  split at h
  · cases h
  · next u hu =>
    rcases feed_settings hu with hsame | ⟨hidle, hcommit⟩
    · split at h
      · have hcommit := (microStep_settings h).resolve_left fun e => hne (e.trans (hsame.trans hset))
        exact ⟨u, t, moves.trans (feed_moves hu), .refl, hsame.trans hset, rfl, hcommit⟩
      · cases h; exact absurd (hsame.trans hset) hne
    · rw [if_neg (by simp [hidle])] at h
      cases h
      exact hcommit.after moves hset

/-! ## The step -/

/-- Only a response frame decodes to a response row. -/
theorem encode_ne_rsp_of_decode {p : Packet} {i : Instr} (hp : ∀ frame, p ≠ .rsp frame) (h : decode p = .ok i)
    (frame : List Byte) : encode i ≠ .rsp frame := by
  cases p with
  | cmd w =>
    cases h
    simp only [decodeCommand]
    split <;> nofun
  | ev w =>
    cases h
    simp only [decodeEvent]
    split <;> nofun
  | req bytes => rw [(decodeRequest_sound h).2]; nofun
  | rsp bytes => exact absurd rfl (hp bytes)

/-- The HOST's load writes no setting. -/
theorem hostLoad_settings (payload : List Byte) (s : State) : (hostLoad payload s).settings = s.settings := by
  rcases Nat.lt_or_ge 255 payload.length with hlong | hfits
  · rw [hostLoad_too_long s hlong]; rfl
  · rw [hostLoad_fits s hfits]; rfl

/-- Of the transitions that a step is made of, one commits the settings that the step changed. -/
theorem step_settings (h : step s = .next t) (hne : t.settings ≠ s.settings) :
    ∃ u v, WithinStep s u v t ∧ u.settings = s.settings ∧ v.settings = t.settings ∧ SettingsCommit u v := by
  have one_transition : ∀ {ready}, microStep ready { s with inputs := s.inputs.tail } = .ok t →
      ∃ u v, WithinStep s u v t ∧ u.settings = s.settings ∧ v.settings = t.settings ∧ SettingsCommit u v :=
    fun hm => ⟨_, t, ⟨.refl, .refl, fun _ => ⟨rfl, rfl⟩⟩, rfl, rfl, (microStep_settings hm).resolve_left hne⟩
  match hin : s.inputs with
  | [] =>
    rw [step_no_input hin] at h
    refine one_transition (ready := none) ?_
    rw [hin, List.tail_nil, ← hin]
    exact toOutcome_eq_next.mp h
  | .packet p :: rest =>
    match hd : decode p with
    | .error e => rw [step_bad_packet hin hd] at h; cases h
    | .ok i =>
      rw [step_packet hin hd] at h
      match p with
      | .rsp frame =>
        rw [exec_of_encode_rsp (decodeResponse_sound hd).2] at h
        obtain ⟨u, v, before, after, hu, hv, hcommit⟩ := receiveFrame_settings (toOutcome_eq_next.mp h) hne
        refine ⟨u, v, ⟨?_, after, fun hnot => absurd hin (hnot frame rest)⟩, hu, hv, hcommit⟩
        rw [hin]; exact before
      | .cmd _ | .ev _ | .req _ => exact absurd (exec_settings (encode_ne_rsp_of_decode (by nofun) hd) h) hne
  | .load payload :: rest => rw [step_load hin] at h; cases h; exact absurd (hostLoad_settings payload _) hne
  | .read sels :: rest => rw [step_read hin] at h; cases h; exact absurd rfl hne
  | .poll ready :: rest =>
    rw [step_poll hin] at h
    refine one_transition (ready := some ready) ?_
    rw [hin]
    exact toOutcome_eq_next.mp h

/-- Settles O51: the instructions by `exec_settings`, a micro-step by `microStep_settings`, a step by
`step_settings`. -/
theorem settingsChangeOnlyAtCommit : Obligations.SettingsChangeOnlyAtCommit := by
  intro s t hne
  refine ⟨fun i hi h => hne (exec_settings hi h), fun ready h => ?_, fun h => ?_⟩
  · obtain ⟨ht, hidle, hok, hlink, -⟩ := (microStep_settings h).resolve_left hne
    exact ⟨ht, hidle, hok, hlink⟩
  · obtain ⟨u, v, hwithin, hu, hv, ht, hidle, hok, hlink, hmicro⟩ := step_settings h hne
    exact ⟨u, v, hwithin, hu, hv, ht, hidle, hok, hlink, hmicro⟩

end

end Sys2Proof.Machine
end

section
/-! The Baud-Rate Controller (44_baud.md R230 to R238): the percentage, the direction and the new rate as the integers of
the pseudocode, and the two requests. -/

namespace Sys2Proof.Machine

/-! ## The integers of the pseudocode -/

/-- `LASTPCT` saturates at a byte (R237). -/
theorem storedPct_toNat (pct : Nat) : (storedPct pct).toNat = min pct 255 := by
  rw [storedPct, BitVec.toNat_ofNat]; omega

/-- Nothing was sent where the counter is 0 as a number (R231). -/
theorem successPct_eq (l : LinkState) :
    successPct l = if l.sent.toNat = 0 then 0 else l.recv.toNat * 100 / l.sent.toNat := by
  simp only [successPct, BitVec.toNat_eq, BitVec.toNat_ofNat, Nat.zero_mod]

theorem Dir.flip_value (d : Dir) : d.flip.value = -d.value := by cases d <;> rfl

/-- At a legal baud rate the clamp's test is that of R235 on integers: only the bound ahead can be passed. -/
theorem leavesRange_iff {l : LinkState} (h : BaudLegal l) (d : Dir) : leavesRange d l.baud = true ↔
    (l.baud.toNat : Int) + 50 * d.value > 4950 ∨ (l.baud.toNat : Int) + 50 * d.value < 4650 := by
  obtain ⟨hmin, hmax, -⟩ := (baudLegal_iff l).mp h
  cases d with
  | up => rw [leavesRange_up, Dir.value]; omega
  | down => rw [leavesRange_down, Dir.value]; omega

/-- A step that stays in the range does not wrap (R236). -/
theorem movedBaud_toInt {d : Dir} {baud : Half} (h : leavesRange d baud = false) :
    ((movedBaud d baud).toNat : Int) = baud.toNat + 50 * d.value := by
  rw [Bool.eq_false_iff, Ne] at h
  cases d with
  | up =>
    rw [leavesRange_up] at h
    simp only [movedBaud, Config.baudStep, Dir.value, BitVec.toNat_add, BitVec.toNat_ofNat]; omega
  | down =>
    rw [leavesRange_down] at h
    simp only [movedBaud, Config.baudStep, Dir.value, BitVec.toNat_sub, BitVec.toNat_ofNat]; omega

/-- The direction after the degradation flip (R234). -/
theorem degraded_value (pct : Nat) (l : LinkState) :
    (if pct < l.lastpct.toNat then l.dir.flip else l.dir).value =
      if pct < l.lastpct.toNat then -l.dir.value else l.dir.value := by
  rw [apply_ite Dir.value, Dir.flip_value]

/-- The direction after flip and clamp (R234, R235). -/
theorem nextDir_value {l : LinkState} (h : BaudLegal l) (pct : Nat) {d : Int}
    (hd : d = if pct < l.lastpct.toNat then -l.dir.value else l.dir.value) :
    (nextDir pct l).value =
      if (l.baud.toNat : Int) + 50 * d > 4950 ∨ (l.baud.toNat : Int) + 50 * d < 4650 then -d else d := by
  rw [← degraded_value] at hd
  simp only [nextDir, apply_ite Dir.value, Dir.flip_value, leavesRange_iff h]
  rw [hd, apply_ite Dir.value, Dir.flip_value]

/-! ## One invocation -/

/-- An evaluation that changes `BAUD` is one of a poor link, and moves it by one step (R233, R236, R240). -/
theorem baudStep_moved {s : State} (h : BaudLegal s.link) (hne : (baudStep s).link.baud ≠ s.link.baud) :
    BaudMoved s (baudStep s) := by
  rcases baudStep_cases s with ⟨-, e⟩ | ⟨-, -, e⟩ | ⟨hwarm, hpoor, e⟩
  · rw [e] at hne; exact absurd rfl hne
  · rw [e] at hne; exact absurd rfl hne
  · rw [e]
    refine ⟨?_, hpoor, hwarm, rfl, rfl, rfl⟩
    have hmoved := movedBaud_toInt (nextDir_stays h (successPct s.link))
    show (movedBaud _ _).toNat = _ ∨ _ = (movedBaud _ _).toNat + 50
    generalize nextDir (successPct s.link) s.link = d at hmoved ⊢
    cases d with
    | up => rw [Dir.value] at hmoved; omega
    | down => rw [Dir.value] at hmoved; omega

/-! ## The requests -/

theorem execBrStep_accepted {s : State} (ha : accepting s = true) :
    execBrStep s = .next (finish (baudStep s).link.baud (baudStep s)) := request_accepted _ ha

/-- An accepted `BR.STEP` writes the link, the peripheral port and its answer only. -/
theorem finish_baudStep {s : State} (ha : accepting s = true) (v : Half) :
    finish v (baudStep s) = { s with
      link := (baudStep s).link, outputs := (baudStep s).outputs, results := s.results ++ [⟨.ok, v⟩] } := by
  obtain ⟨-, hidle⟩ := (accepting_iff s).mp ha
  rw [baudStep_frame, finish, ← hidle]

/-- Settles O22: the three cases of `baudStep_cases`, with the model's percentage and direction as the integers of the
pseudocode. -/
theorem baudStepResult : Obligations.BaudStepResult := by
  intro s ha hlegal l pct thr d0 d1 d
  have hpct : successPct s.link = pct := successPct_eq s.link
  have hdir : (nextDir pct s.link).value = d := nextDir_value hlegal pct rfl
  refine ⟨_, execBrStep_accepted ha, finish_baudStep ha _, ?_⟩
  rw [finish_link, finish_outputs]
  rcases baudStep_cases s with ⟨hwarm, e⟩ | ⟨hwarm, hgood, e⟩ | ⟨hwarm, hpoor, e⟩
  · have hwarm' : l.sent.toNat < thr := hwarm
    rw [e, hpct]
    exact ⟨storedPct_toNat pct, fun _ => ⟨rfl, rfl⟩, fun hev => absurd hwarm' hev.not_gt,
      fun hev => absurd hwarm' hev.not_gt, fun hev => absurd hwarm' hev.not_gt⟩
  · have hwarm' : thr ≤ l.sent.toNat := hwarm
    rw [hpct] at hgood
    rw [e, hpct]
    exact ⟨storedPct_toNat pct, fun hlt => absurd hlt hwarm'.not_gt, fun _ => ⟨rfl, rfl⟩,
      fun _ _ => ⟨rfl, rfl, rfl⟩, fun _ hlt => absurd hlt (Nat.not_lt.mpr hgood)⟩
  · have hwarm' : thr ≤ l.sent.toNat := hwarm
    have hmoved := movedBaud_toInt (nextDir_stays hlegal pct)
    rw [hpct] at hpoor
    rw [hdir] at hmoved
    rw [e, hpct]
    exact ⟨storedPct_toNat pct, fun hlt => absurd hlt hwarm'.not_gt, fun _ => ⟨rfl, rfl⟩,
      fun _ hge => absurd hpoor (Nat.not_lt.mpr hge), fun _ _ => ⟨hdir, hmoved, rfl⟩⟩

theorem execBrReconf_accepted {s : State} (ha : accepting s = true) :
    execBrReconf s = .next (finish s.link.baud (reconfigure s)) := request_accepted _ ha

theorem execBrReconf_refused {s : State} (ha : accepting s = false) : execBrReconf s = .next s.refuse :=
  request_refused _ ha

/-- `BR.RECONF` ends no operation: none is in progress where it is accepted. -/
theorem finish_reconfigure {s : State} (ha : accepting s = true) (v : Half) :
    finish v (reconfigure s) = (reconfigure s).answer ⟨.ok, v⟩ := by
  obtain ⟨-, hidle⟩ := (accepting_iff s).mp ha
  rw [finish, ← hidle]
  rfl

/-- Settles O24: an accepted request is `reconfigure` with its answer, and a running exchange refuses it. -/
theorem reconfigureRequest : Obligations.ReconfigureRequest := by
  intro s
  constructor
  · intro ha
    exact (execBrReconf_accepted ha).trans (congrArg Host.Outcome.next (finish_reconfigure ha _))
  · exact fun hrun => ⟨0#16, execBrReconf_refused (accepting_eq_false_of_running hrun)⟩

end Sys2Proof.Machine
end

section
/-! Where `BAUD` changes (44_baud.md R240): in one invocation of the controller, by `BR.STEP` or in an exchange's
preparation, and nowhere else. Every other transition is quiet (`BaudQuiet`); as none of them leads back to the
preparation, a chain of transitions passes the exchange's `BR.STEP` at most once. -/

namespace Sys2Proof.Machine

/-! ## Quiet transitions -/

/-- The exchange's `BR.STEP` is still to come (45_transport_exchange.md R281, R282). -/
def Task.beforeBaudStep : Task → Bool
  | .clearQueue | .stepBaud => true
  | .idle | .countSent | .sendWait | .sendByte | .recv | .expect _ | .echo | .parse | .dispatch => false

/-- Nothing of the controller happens from `s` to `t`: `BAUD` stays, the link is not configured, and where the exchange's
`BR.STEP` is still to come it was so before, with the counters it will see. -/
structure BaudQuiet (s t : State) : Prop where
  baud : t.link.baud = s.link.baud
  outputs : ∃ added, t.outputs = s.outputs ++ added ∧ ∀ b h, .configureLink b h ∉ added
  ahead : t.task.beforeBaudStep = true → s.task.beforeBaudStep = true ∧ t.link = s.link

section
variable {s t u : State}

theorem BaudQuiet.trans (h : BaudQuiet s t) (h' : BaudQuiet t u) : BaudQuiet s u where
  baud := h'.baud.trans h.baud
  outputs := by
    obtain ⟨first, hfirst, hno⟩ := h.outputs
    obtain ⟨second, hsecond, hno'⟩ := h'.outputs
    refine ⟨first ++ second, by rw [hsecond, hfirst, List.append_assoc], fun b hd hmem => ?_⟩
    exact (List.mem_append.mp hmem).elim (hno b hd) (hno' b hd)
  ahead hu := by
    obtain ⟨ht, hlink'⟩ := h'.ahead hu
    obtain ⟨hs, hlink⟩ := h.ahead ht
    exact ⟨hs, hlink'.trans hlink⟩

/-- A transition that emits nothing. -/
theorem BaudQuiet.silent (hbaud : t.link.baud = s.link.baud) (hout : t.outputs = s.outputs)
    (ahead : t.task.beforeBaudStep = true → s.task.beforeBaudStep = true ∧ t.link = s.link) : BaudQuiet s t :=
  ⟨hbaud, ⟨[], by rw [hout, List.append_nil], fun _ _ => List.not_mem_nil⟩, ahead⟩

/-- A transition that leaves the link, the peripheral port and the control position alone. -/
theorem BaudQuiet.same (hlink : t.link = s.link) (hout : t.outputs = s.outputs) (htask : t.task = s.task) :
    BaudQuiet s t :=
  .silent (by rw [hlink]) hout fun h => ⟨htask ▸ h, hlink⟩

/-- The transition may begin in any state with the same link, peripheral port and control position. -/
theorem BaudQuiet.begun_at (h : BaudQuiet u t) (hlink : u.link = s.link) (hout : u.outputs = s.outputs)
    (htask : u.task = s.task) : BaudQuiet s t :=
  (BaudQuiet.same hlink hout htask).trans h

theorem BaudQuiet.refl (s : State) : BaudQuiet s s := .same rfl rfl rfl

/-- An output event other than `configure_link`. -/
theorem BaudQuiet.emits (s : State) {c : PeriphCall} (hc : ∀ b h, c ≠ .configureLink b h) : BaudQuiet s (s.emit c) :=
  ⟨rfl, ⟨[c], rfl, fun b h hmem => hc b h (List.mem_singleton.mp hmem).symm⟩, fun h => ⟨h, rfl⟩⟩

theorem finish_quiet (v : Half) (s : State) : BaudQuiet s (finish v s) := .silent rfl rfl nofun

theorem raise_quiet (o : ExchangeOutcome) (s : State) : BaudQuiet s (raise o s) := .silent rfl rfl nofun

theorem startSend_quiet (s : State) : BaudQuiet s (startSend s) := .silent rfl rfl nofun

theorem startEcho_quiet (s : State) : BaudQuiet s (startEcho s) := .silent rfl rfl nofun

theorem startParse_quiet (s : State) : BaudQuiet s (startParse s) := .silent rfl rfl nofun

theorem receiveEvent_quiet (b : Byte) (s : State) : BaudQuiet s (receiveEvent b s) :=
  (BaudQuiet.emits (push b s) (by nofun)).begun_at rfl rfl rfl

/-! ## Waits -/

theorem countDown_quiet (s : State) : BaudQuiet s (countDown s) := .same rfl rfl rfl

theorem failedPoll_quiet (s : State) : BaudQuiet s (failedPoll s) := by
  rcases failedPoll_cases s with ⟨-, e⟩ | ⟨-, e⟩
  · rw [e]; exact (countDown_quiet s).trans (raise_quiet _ _)
  · rw [e]; exact (countDown_quiet s).trans (.emits _ (by nofun))

theorem failedReadyPoll_quiet (s : State) : BaudQuiet s (failedReadyPoll s) := by
  rcases failedReadyPoll_cases s with ⟨-, e⟩ | ⟨-, e⟩
  · rw [e]; exact (countDown_quiet s).trans (raise_quiet _ _)
  · rw [e]; exact countDown_quiet s

/-- A poll of a receive is quiet where the use of the byte is. -/
theorem pollQueue_quiet {onByte : Byte → State → Except Fault State} (h : pollQueue s onByte = .ok t)
    (use : ∀ v u, onByte v u = .ok t → BaudQuiet u t) : BaudQuiet s t := by
  rcases pollQueue_cases h with ⟨-, rfl⟩ | ⟨v, -, -, hv⟩
  · exact failedPoll_quiet s
  · exact (use v _ hv).begun_at rfl rfl rfl

theorem recvByte_quiet {v : Byte} (h : recvByte v s = .ok t) : BaudQuiet s t := by cases h; exact finish_quiet _ s

theorem expectByte_quiet {v b : Byte} (h : expectByte v b s = .ok t) : BaudQuiet s t := by
  cases h; exact finish_quiet _ s

/-! ## Sending and verifying the echo -/

theorem nextSendByte_quiet (s : State) : BaudQuiet s (nextSendByte s) := by
  rcases nextSendByte_cases s with ⟨-, e⟩ | ⟨-, e⟩
  · rw [e]; exact .silent rfl rfl nofun
  · rw [e]
    rcases endSend_cases s with ⟨-, e'⟩ | ⟨-, e'⟩
    · rw [e']; exact (startEcho_quiet _).begun_at rfl rfl rfl
    · rw [e']; exact finish_quiet _ s

theorem sendWaitPoll_quiet (s : State) : BaudQuiet s (sendWaitPoll s) := by
  rcases sendWaitPoll_cases s with ⟨-, e⟩ | ⟨-, e⟩
  · rw [e]
    exact ((BaudQuiet.emits _ (by nofun)).trans (nextSendByte_quiet _)).begun_at rfl rfl rfl
  · rw [e]; exact failedPoll_quiet s

theorem sendBytePoll_quiet {ready : Option Bool} (h : sendBytePoll ready s = .ok t) : BaudQuiet s t := by
  obtain ⟨u, hu, hcases⟩ := sendBytePoll_cases h
  have drawn : BaudQuiet s u := by rcases hu with rfl | rfl <;> exact .same rfl rfl rfl
  rcases hcases with ⟨b, -, rfl⟩ | rfl
  · have sent := (BaudQuiet.emits _ (by nofun)).trans (nextSendByte_quiet (State.emit
      { u with transport := { u.transport with txidx := u.transport.txidx + 1 } } (.transmitByte b)))
    exact drawn.trans (sent.begun_at rfl rfl rfl)
  · exact drawn.trans (failedReadyPoll_quiet u)

theorem echoMatched_quiet (i : BitVec 9) (s : State) : BaudQuiet s (echoMatched i s) := by
  rcases echoMatched_cases i s with ⟨-, e⟩ | ⟨-, e⟩
  · rw [e]; exact .same rfl rfl rfl
  · rw [e]
    rcases endEcho_cases { s with seq := { s.seq with eidx := i } } with ⟨-, e'⟩ | ⟨-, e'⟩
    · rw [e']; exact (startParse_quiet _).begun_at rfl rfl rfl
    · rw [e']; exact (finish_quiet _ _).begun_at rfl rfl rfl

theorem echoByte_quiet {b : Byte} (h : echoByte b s = .ok t) : BaudQuiet s t := by
  rcases echoByte_cases h with ⟨-, -, rfl⟩ | ⟨-, -, -, rfl⟩ | ⟨-, -, -, rfl⟩ | ⟨-, -, rfl⟩ | ⟨-, -, rfl⟩
  · exact echoMatched_quiet _ s
  · exact echoMatched_quiet _ s
  · exact raise_quiet _ s
  · exact echoMatched_quiet _ s
  · exact raise_quiet _ s

/-! ## The parse -/

/-- A byte of a parse emits nothing. -/
theorem parseByte_outputs {b : Byte} (h : parseByte b s = .ok t) : t.outputs = s.outputs := by
  have goes_on : ∀ u, (nextPayload u).outputs = u.outputs := fun u => by
    rcases nextPayload_cases u with ⟨-, e⟩ | ⟨-, e⟩
    · rw [e]; rfl
    · rw [e]
      rcases endPayload_cases u with ⟨-, e'⟩ | ⟨-, e'⟩ <;> simp [e']
  cases h
  match s.parser.pstate with
  | .idle | .sync => rcases syncByte_cases b s with ⟨-, -, e⟩ | ⟨-, n, -, ⟨-, e⟩ | ⟨-, e⟩⟩ <;> simp [e]
  | .cmd => rfl
  | .len | .pay => exact goes_on _
  | .crc => rcases crcStageByte_cases b s with ⟨-, e⟩ | ⟨-, e⟩ <;> simp [e]

theorem parseByte_quiet {b : Byte} (h : parseByte b s = .ok t) : BaudQuiet s t := by
  obtain ⟨hlink, control⟩ := parseByte_move h
  refine .silent (by rw [hlink]) (parseByte_outputs h) fun hahead => ⟨?_, hlink⟩
  rcases control with hidle | ⟨hsame | hdispatch, -⟩
  · rw [hidle] at hahead; cases hahead
  · rwa [hsame] at hahead
  · rw [hdispatch] at hahead; cases hahead

theorem dispatch_quiet (h : dispatch s = .ok t) : BaudQuiet s t := by
  rcases dispatch_inversion h with ⟨-, v, n, l, rfl, -⟩ | ⟨-, rfl⟩
  · exact .silent rfl rfl nofun
  · exact .silent rfl rfl nofun

/-! ## The micro-steps -/

/-- Every micro-step is quiet but the exchange's `BR.STEP`. -/
theorem microStep_baud {ready : Option Bool} (h : microStep ready s = .ok t) :
    BaudQuiet s t ∨ (s.task = .stepBaud ∧ t = { baudStep s with task := .countSent }) := by
  match ht : s.task with
  | .stepBaud => rw [microStep_stepBaud ready ht] at h; cases h; exact .inr ⟨rfl, rfl⟩
  | .idle => rw [microStep_idle ready ht] at h; cases h; exact .inl (.refl s)
  | .clearQueue =>
    rw [microStep_clearQueue ready ht] at h
    cases h
    exact .inl (.silent rfl rfl fun _ => ⟨by rw [ht]; rfl, rfl⟩)
  | .countSent => rw [microStep_countSent ready ht] at h; cases h; exact .inl (.silent rfl rfl nofun)
  | .sendWait => rw [microStep_sendWait ready ht] at h; cases h; exact .inl (sendWaitPoll_quiet s)
  | .sendByte => rw [microStep_sendByte ready ht] at h; exact .inl (sendBytePoll_quiet h)
  | .recv => rw [microStep_recv ready ht] at h; exact .inl (pollQueue_quiet h fun _ _ => recvByte_quiet)
  | .expect v => rw [microStep_expect ready ht] at h; exact .inl (pollQueue_quiet h fun _ _ => expectByte_quiet)
  | .echo => rw [microStep_echo ready ht] at h; exact .inl (pollQueue_quiet h fun _ _ => echoByte_quiet)
  | .parse => rw [microStep_parse ready ht] at h; exact .inl (pollQueue_quiet h fun _ _ => parseByte_quiet)
  | .dispatch => rw [microStep_dispatch ready ht] at h; exact .inl (dispatch_quiet h)

/-- A micro-step that changes `BAUD` is the exchange's `BR.STEP`. -/
theorem microStep_moved {ready : Option Bool} (hlegal : BaudLegal s.link) (h : microStep ready s = .ok t)
    (hne : t.link.baud ≠ s.link.baud) : s.task = .stepBaud ∧ BaudMoved s t := by
  rcases microStep_baud h with hquiet | ⟨ht, rfl⟩
  · exact absurd hquiet.baud hne
  · exact ⟨ht, { baudStep_moved hlegal hne with }⟩

/-! ## The instructions -/

/-- A request keeps `BAUD` where its operation does. -/
theorem request_baud {body : State → Except Fault State} (h : request s body = .next t)
    (accepted : body s = .ok t → t.link.baud = s.link.baud) : t.link.baud = s.link.baud :=
  request_keeps (P := fun t => t.link.baud = s.link.baud) h rfl fun _ => accepted

theorem finishBuild_baud {cmd : Byte} (h : finishBuild (buildFrame cmd s) = .ok t) : t.link.baud = s.link.baud := by
  obtain ⟨u, hu, rfl⟩ := finishBuild_cases h
  rw [finish_link, buildFrame_link hu]

theorem buildRequest_baud {cmd : Byte} {payload : List Byte} (h : buildRequest cmd payload s = .next t) :
    t.link.baud = s.link.baud := by
  refine request_baud h fun hb => ?_
  split at hb
  · exact finishBuild_baud (s := loadPayload payload s) hb
  · cases hb; rfl

theorem execQPop_baud (h : execQPop s = .next t) : t.link.baud = s.link.baud := by
  refine request_baud h fun hb => ?_
  split at hb
  · cases hb
  all_goals
    next hpop =>
      cases hb
      rcases pop_cases hpop with ⟨-, -, rfl⟩ | ⟨w, -, -, -, rfl⟩ <;> rfl

theorem execTSend_baud (h : execTSend s = .next t) : t.link.baud = s.link.baud := by
  refine request_baud h fun hb => ?_
  split at hb
  · cases hb; rfl
  · cases hb; exact (sendWaitPoll_quiet (startSend s)).baud

theorem execXEcho_baud (h : execXEcho s = .next t) : t.link.baud = s.link.baud := by
  refine request_baud h fun hb => ?_
  split at hb
  · cases hb; rfl
  · exact (pollQueue_quiet (s := startEcho s) hb fun _ _ => echoByte_quiet).baud

/-- No instruction but `BR.STEP` and the response rows changes `BAUD`. -/
theorem exec_baud {i : Instr} (hi : ∀ frame, encode i ≠ .rsp frame) (hstep : i ≠ .brStep) (h : exec i s = .next t) :
    t.link.baud = s.link.baud := by
  cases i with
  | brStep => exact absurd rfl hstep
  | qPop => exact execQPop_baud h
  | qAvail | qClear | crcInit | crcUpd b | brReconf =>
    simp only [exec, execQAvail, execQClear, execCrcInit, execCrcUpd, execBrReconf] at h
    exact request_baud h fun hb => by cases hb; rfl
  | fbBuild cmd =>
    simp only [exec, execFbBuild] at h
    exact request_baud h finishBuild_baud
  | tSend => exact execTSend_baud h
  | tRecv =>
    simp only [exec, execTRecv] at h
    exact request_baud h fun hb => (pollQueue_quiet hb fun _ _ => recvByte_quiet).baud
  | tExpect v =>
    simp only [exec, execTExpect] at h
    exact request_baud h fun hb => (pollQueue_quiet hb fun _ _ => expectByte_quiet).baud
  | xEcho => exact execXEcho_baud h
  | fpParse =>
    simp only [exec, execFpParse] at h
    exact request_baud h fun hb => (pollQueue_quiet hb fun _ _ => parseByte_quiet).baud
  | xCmd cmd =>
    simp only [exec, execXCmd] at h
    exact request_baud h fun hb => (congrArg LinkState.baud (buildFrame_link hb)).trans rfl
  | reserved0 | reservedF | evRx b | evTxc => cases h; rfl
  | reqGetSettings p | reqSetPower p | reqSetChannel p | reqSetFrequency p | reqSetMode p | reqGetSettingsV2 p
  | reqGetSettingsV21 p => exact buildRequest_baud h
  | rspGetSettings p | rspGetSettingsV2 p => exact absurd rfl (hi _)
  | rspSetPower p crc | rspSetChannel p crc | rspSetFrequency p crc | rspSetMode p crc | rspGetSettingsV21 p crc =>
    exact absurd rfl (hi _)
  | rspUnknown rcmd p crc => exact absurd rfl (hi _)

theorem execBrStep_moved (hlegal : BaudLegal s.link) (h : execBrStep s = .next t)
    (hne : t.link.baud ≠ s.link.baud) : BaudMoved s t := by
  rcases request_cases h with ⟨-, hb⟩ | ⟨-, rfl⟩
  · cases hb; exact { baudStep_moved hlegal hne with }
  · exact absurd rfl hne

/-- An instruction other than a response row that changes `BAUD` is `BR.STEP`. -/
theorem exec_moved {i : Instr} (hi : ∀ frame, encode i ≠ .rsp frame) (hlegal : BaudLegal s.link)
    (h : exec i s = .next t) (hne : t.link.baud ≠ s.link.baud) : i = .brStep ∧ BaudMoved s t := by
  by_cases hstep : i = .brStep
  · subst hstep; exact ⟨rfl, execBrStep_moved hlegal h hne⟩
  · exact absurd (exec_baud hi hstep h) hne

/-! ## The response rows -/

/-- The chain from `s` to `t` passes the exchange's `BR.STEP` in the transition from `u` to `v`, and is quiet around
it. -/
structure PassesBaudStep (s u v t : State) : Prop where
  before : Relation.ReflTransGen RowMove s u
  quietBefore : BaudQuiet s u
  due : u.task = .stepBaud
  micro : ∃ ready, microStep ready u = .ok v
  after : Relation.ReflTransGen RowMove v t
  quietAfter : BaudQuiet v t

/-- A quiet start of the chain. -/
theorem PassesBaudStep.preceded {r v : State} (h : PassesBaudStep s u v t) (moves : Relation.ReflTransGen RowMove r s)
    (quiet : BaudQuiet r s) : PassesBaudStep r u v t :=
  { h with before := moves.trans h.before, quietBefore := quiet.trans h.quietBefore }

/-- A quiet end of the chain. -/
theorem PassesBaudStep.followed {v w : State} (h : PassesBaudStep s u v t) (move : RowMove t w)
    (quiet : BaudQuiet t w) : PassesBaudStep s u v w :=
  { h with after := h.after.tail move, quietAfter := h.quietAfter.trans quiet }

/-- The bytes of a row pass the exchange's `BR.STEP` at most once: behind it nothing leads back. -/
theorem feed_baud {bytes : List Byte} (h : feed bytes s = .ok t) :
    BaudQuiet s t ∨ ∃ u v, PassesBaudStep s u v t := by
  induction bytes generalizing s with
  | nil => cases h; exact .inl (.refl _)
  | cons b rest ih =>
    obtain ⟨r, hm, hrest⟩ := feed_cons_cases h
    have arrived := receiveEvent_quiet b s
    rcases microStep_baud hm with hquiet | ⟨hdue, hr⟩
    · have moves : Relation.ReflTransGen RowMove s r :=
        .head (.arrival b s) (.single (.micro none _ r hm))
      rcases ih hrest with hsame | ⟨u, v, hpass⟩
      · exact .inl ((arrived.trans hquiet).trans hsame)
      · exact .inr ⟨u, v, hpass.preceded moves (arrived.trans hquiet)⟩
    · have behind : r.task.beforeBaudStep = false := by rw [hr]; rfl
      rcases ih hrest with hsame | ⟨u, v, hpass⟩
      · exact .inr ⟨_, r, .single (.arrival b s), arrived, hdue, ⟨none, hm⟩, feed_moves hrest, hsame⟩
      · have again := (hpass.quietBefore.ahead (by rw [hpass.due]; rfl)).1
        rw [behind] at again
        cases again

/-- A response row is quiet, or passes the exchange's `BR.STEP` once. -/
theorem receiveFrame_baud {frame : List Byte} (h : receiveFrame frame s = .ok t) :
    BaudQuiet s t ∨ ∃ u v, PassesBaudStep s u v t := by
  simp only [receiveFrame] at h
  obtain ⟨r, hr, moves, hstart⟩ : ∃ r, (if accepting s then startParse s else s) = r ∧
      Relation.ReflTransGen RowMove s r ∧ BaudQuiet s r := by
    split
    · next ha => exact ⟨_, rfl, .single (.parseBegins s ha), startParse_quiet s⟩
    · exact ⟨s, rfl, .refl, .refl s⟩
  rw [hr] at h
  split at h
  · cases h
  · next fed hfed =>
    have hwhole : BaudQuiet s fed ∨ ∃ u v, PassesBaudStep s u v fed :=
      (feed_baud hfed).imp hstart.trans fun ⟨u, v, hpass⟩ => ⟨u, v, hpass.preceded moves hstart⟩
    split at h
    · next hdispatch =>
      have hquiet := dispatch_quiet ((microStep_dispatch none hdispatch).symm.trans h)
      exact hwhole.imp (·.trans hquiet) fun ⟨u, v, hpass⟩ => ⟨u, v, hpass.followed (.micro none _ _ h) hquiet⟩
    · cases h; exact hwhole

/-! ## The step -/

/-- The transition from `u` to `v` within the step from `s` is a `BR.STEP`: the request, or that of an exchange. -/
def IsBaudStep (s u v : State) : Prop :=
  (∃ p rest, s.inputs = .packet p :: rest ∧ decode p = .ok .brStep ∧ exec .brStep u = .next v) ∨
  (u.task = .stepBaud ∧ ∃ ready, microStep ready u = .ok v)

/-- One transition of the step from `s` to `t` moves `BAUD`, a `BR.STEP` whose `configure_link` is the step's only
one. -/
def StepMovesBaud (s t : State) : Prop :=
  ∃ u v, WithinStep s u v t ∧ u.link = s.link ∧ BaudMoved u v ∧ v.link.baud = t.link.baud ∧ IsBaudStep s u v ∧
    ∃ before after, t.outputs = s.outputs ++ before ++ .configureLink t.link.baud true :: after ∧
      ∀ b h, .configureLink b h ∉ before ++ after

/-- A step of one transition. -/
theorem StepMovesBaud.single (hmoved : BaudMoved { s with inputs := s.inputs.tail } t)
    (his : IsBaudStep s { s with inputs := s.inputs.tail } t) : StepMovesBaud s t :=
  ⟨_, t, ⟨.refl, .refl, fun _ => ⟨rfl, rfl⟩⟩, rfl, hmoved, rfl, his, [], [],
    by rw [List.append_nil]; exact hmoved.configured, fun _ _ => List.not_mem_nil⟩

/-- A response row that changes `BAUD` passes the exchange's `BR.STEP`, and that one moves it. -/
theorem StepMovesBaud.row {frame frame' : List Byte} {rest : List Input} (hlegal : BaudLegal s.link)
    (hin : s.inputs = .packet (.rsp frame') :: rest) (h : receiveFrame frame { s with inputs := rest } = .ok t)
    (hne : t.link.baud ≠ s.link.baud) : StepMovesBaud s t := by
  rcases receiveFrame_baud h with hquiet | ⟨u, v, hpass⟩
  · exact absurd hquiet.baud hne
  · obtain ⟨-, hlink⟩ := hpass.quietBefore.ahead (by rw [hpass.due]; rfl)
    have hbaud := hpass.quietAfter.baud
    obtain ⟨ready, hm⟩ := hpass.micro
    obtain ⟨-, hmoved⟩ := microStep_moved (by rw [hlink]; exact hlegal) hm (by rw [hlink, ← hbaud]; exact hne)
    obtain ⟨earlier, hearlier, hno⟩ := hpass.quietBefore.outputs
    obtain ⟨later, hlater, hno'⟩ := hpass.quietAfter.outputs
    refine ⟨u, v, ⟨?_, hpass.after, fun hnot => absurd hin (hnot frame' rest)⟩, hlink, hmoved, hbaud.symm,
      .inr ⟨hpass.due, ready, hm⟩, earlier, later, ?_, fun b hd hmem => ?_⟩
    · rw [hin]; exact hpass.before
    · rw [hlater, hmoved.configured, hearlier, hbaud, List.append_assoc, List.singleton_append]
    · exact (List.mem_append.mp hmem).elim (hno b hd) (hno' b hd)

/-- The HOST's load leaves the link alone. -/
theorem hostLoad_link (payload : List Byte) (s : State) : (hostLoad payload s).link = s.link := by
  rcases Nat.lt_or_ge 255 payload.length with hlong | hfits
  · rw [hostLoad_too_long s hlong]; rfl
  · rw [hostLoad_fits s hfits]; rfl

/-- Of the transitions that a step is made of, one `BR.STEP` moves the `BAUD` that the step changed. -/
theorem step_moved (hlegal : BaudLegal s.link) (h : step s = .next t) (hne : t.link.baud ≠ s.link.baud) :
    StepMovesBaud s t := by
  have one_transition : ∀ {ready}, microStep ready { s with inputs := s.inputs.tail } = .ok t → StepMovesBaud s t :=
    fun hm =>
      have ⟨hdue, hmoved⟩ := microStep_moved (s := { s with inputs := s.inputs.tail }) hlegal hm hne
      .single hmoved (.inr ⟨hdue, _, hm⟩)
  match hin : s.inputs with
  | [] =>
    rw [step_no_input hin] at h
    refine one_transition (ready := none) ?_
    rw [hin, List.tail_nil, ← hin]
    exact toOutcome_eq_next.mp h
  | .packet p :: rest =>
    match hd : decode p with
    | .error e => rw [step_bad_packet hin hd] at h; cases h
    | .ok i =>
      rw [step_packet hin hd] at h
      match p with
      | .rsp frame =>
        rw [exec_of_encode_rsp (decodeResponse_sound hd).2] at h
        exact .row hlegal hin (toOutcome_eq_next.mp h) hne
      | .cmd _ | .ev _ | .req _ =>
        obtain ⟨rfl, hmoved⟩ :=
          exec_moved (s := { s with inputs := rest }) (encode_ne_rsp_of_decode (by nofun) hd) hlegal h hne
        refine .single ?_ (.inl ⟨_, rest, hin, hd, ?_⟩)
        · rw [hin]; exact hmoved
        · rw [hin]; exact h
  | .load payload :: rest =>
    rw [step_load hin] at h
    cases h
    exact absurd (congrArg LinkState.baud (hostLoad_link payload _)) hne
  | .read sels :: rest => rw [step_read hin] at h; cases h; exact absurd rfl hne
  | .poll ready :: rest =>
    rw [step_poll hin] at h
    refine one_transition (ready := some ready) ?_
    rw [hin]
    exact toOutcome_eq_next.mp h

/-- Settles O23: the instructions by `exec_moved`, a micro-step by `microStep_moved`, a step by `step_moved`. -/
theorem baudMovesOnlyInBaudStep : Obligations.BaudMovesOnlyInBaudStep := fun _ _ hlegal hne =>
  ⟨fun _ hi h => exec_moved hi hlegal h hne, fun _ h => microStep_moved hlegal h hne,
    fun h => step_moved hlegal h hne⟩

end

end Sys2Proof.Machine
end

section
/-! Waits (45_transport_exchange.md R263 to R269): runs of micro-steps through known states, a request that polls in
the transition that accepts it, and polls that fail until the count of the wait is used up. -/

namespace Sys2Proof.Machine

/-! ## Runs of micro-steps -/

/-- A run of micro-steps with the same answer of ENV goes through the states that each of them leaves. -/
theorem runOn_replicate {ready : Bool} {n : Nat} {visited : Nat → State} (h : ∀ k, k < n → ∀ inputs,
      microStep (some ready) { visited k with inputs := inputs } = .ok { visited (k + 1) with inputs := inputs })
    (rest : List Input) :
    runOn (List.replicate n (.poll ready) ++ rest) (visited 0) = runOn rest (visited n) := by
  induction n generalizing visited with
  | zero => rfl
  | succ n ih =>
    exact (runOn_poll (h 0 n.succ_pos _)).trans
      (ih (visited := fun k => visited (k + 1)) fun k hk => h (k + 1) (Nat.succ_lt_succ hk))

/-- A request that takes its first poll in the transition that accepts it (entry 2) runs as that poll. -/
theorem runOn_begins {s begun : State} {i : Instr} {rest : List Input} (hwf : i.wf = true)
    (he : exec i { s with inputs := rest } = toOutcome (microStep (some true) { begun with inputs := rest })) :
    runOn (given i :: rest) s = runOn (.poll true :: rest) begun := by
  have hstep : step { s with inputs := given i :: rest } = step { begun with inputs := .poll true :: rest } := by
    rw [step_packet rfl (encodeThenDecode i hwf), step_poll rfl]
    exact he
  simp only [runOn, List.length_cons, Host.Core.run, core, hstep]

/-! ## The count of a wait -/

/-- The state with `n` polls counted (R263, R264, R266). -/
def counted (n : Nat) (s : State) : State :=
  { s with transport := { s.transport with tmo := s.transport.tmo - BitVec.ofNat 16 n } }

section
variable {s : State} {n : Nat}

theorem counted_zero (s : State) : counted 0 s = s := by simp [counted]

theorem countDown_counted (n : Nat) (s : State) : countDown (counted n s) = counted (n + 1) s := by
  simp only [countDown, counted, BitVec.ofNat_add, BitVec.sub_sub]

theorem counted_tmo_eq_zero (h : n ≤ s.transport.tmo.toNat) :
    (counted n s).transport.tmo = 0#16 ↔ n = s.transport.tmo.toNat := by
  have := s.transport.tmo.isLt
  simp only [counted, BitVec.toNat_eq, BitVec.toNat_sub, BitVec.toNat_ofNat]
  omega

theorem counted_used_up (s : State) : counted s.transport.tmo.toNat s = { s with
    transport := { s.transport with tmo := 0#16 } } := by
  simp [counted]

/-- A count that is not 0 is one more than another. -/
theorem exists_tmo_succ (h : s.transport.tmo ≠ 0#16) : ∃ n, s.transport.tmo.toNat = n + 1 :=
  Nat.exists_eq_succ_of_ne_zero fun h0 => h (BitVec.eq_of_toNat_eq h0)

/-! ## Polls of the transmitter -/

theorem failedReadyPoll_counted (h : n + 1 < s.transport.tmo.toNat) :
    failedReadyPoll (counted n s) = counted (n + 1) s := by
  rw [failedReadyPoll, countDown_counted]
  exact if_neg (mt (counted_tmo_eq_zero h.le).mp h.ne)

theorem failedReadyPoll_last (h : n + 1 = s.transport.tmo.toNat) :
    failedReadyPoll (counted n s) = raise .timeout (counted s.transport.tmo.toNat s) := by
  rw [failedReadyPoll, countDown_counted, h]
  exact if_pos ((counted_tmo_eq_zero le_rfl).mpr rfl)

theorem microStep_notReady (h : s.task = .sendByte) : microStep (some false) s = .ok (failedReadyPoll s) :=
  microStep_sendByte _ h

/-- A byte for which the transmitter is never ready ends in Timeout after as many polls as `TMO` counts (R264). -/
theorem runOn_notReady (ht : s.task = .sendByte) (htmo : s.transport.tmo ≠ 0#16) :
    runOn (List.replicate s.transport.tmo.toNat (.poll false)) s =
      .next { raise .timeout (counted s.transport.tmo.toNat s) with inputs := [] } := by
  obtain ⟨n, hn⟩ := exists_tmo_succ htmo
  have fails : ∀ k inputs, microStep (some false) { counted k s with inputs := inputs } =
      .ok (failedReadyPoll (counted k { s with inputs := inputs })) := fun _ _ => microStep_notReady ht
  have waits := runOn_replicate (ready := false) (n := n) (visited := (counted · s)) (fun k hk inputs =>
    have hk' : k + 1 < s.transport.tmo.toNat := by omega
    (fails k inputs).trans (congrArg Except.ok (failedReadyPoll_counted hk'))) [.poll false]
  rw [counted_zero] at waits
  conv_lhs => rw [hn, List.replicate_succ']
  rw [waits, runOn_one_poll, fails, failedReadyPoll_last (s := { s with inputs := [] }) hn.symm]
  rfl

/-! ## Polls of `TXDONE` and of the queue -/

/-- The operation polls the queue (R266, R268, R275, 43_frame_parser.md R181 to R185). -/
def Task.receives : Task → Bool
  | .recv | .expect _ | .echo | .parse => true
  | .idle | .clearQueue | .stepBaud | .countSent | .sendWait | .sendByte | .dispatch => false

theorem Task.receives_iff (k : Task) :
    k.receives = true ↔ k = .recv ∨ (∃ v, k = .expect v) ∨ k = .echo ∨ k = .parse := by
  cases k <;> simp [receives]

/-- What the operation in progress waits for is not there: the flag of the previous transfer, or a byte. -/
def PollFails (s : State) : Prop :=
  (s.task = .sendWait ∧ s.transport.txdone = false) ∨ (s.task.receives = true ∧ s.queue.isEmpty = true)

theorem PollFails.microStep_eq (h : PollFails s) (ready : Option Bool) : microStep ready s = .ok (failedPoll s) := by
  rcases h with ⟨ht, hd⟩ | ⟨ht, he⟩
  · rw [microStep_sendWait ready ht, sendWaitPoll, if_neg (by simp [hd])]
  · rcases (Task.receives_iff _).mp ht with ht | ⟨v, ht⟩ | ht | ht
    · rw [microStep_recv ready ht, pollQueue_empty _ he]
    · rw [microStep_expect ready ht, pollQueue_empty _ he]
    · rw [microStep_echo ready ht, pollQueue_empty _ he]
    · rw [microStep_parse ready ht, pollQueue_empty _ he]

/-- The state after `n` failed polls, each followed by `wait_for_event()` (R269). -/
def waited (n : Nat) (s : State) : State :=
  { counted n s with outputs := s.outputs ++ List.replicate n .waitForEvent }

/-- The state after some failed polls, with what is left of the count. -/
theorem waited_eq {v : Half} (h : s.transport.tmo - BitVec.ofNat 16 n = v) : waited n s = { s with
    transport := { s.transport with tmo := v }, outputs := s.outputs ++ List.replicate n .waitForEvent } := by
  rw [waited, counted, h]

theorem waited_zero (s : State) : waited 0 s = s := by simp [waited, counted_zero]

theorem PollFails.waited_fails (h : PollFails s) (n : Nat) (inputs : List Input) :
    microStep (some true) { waited n s with inputs := inputs } =
      .ok (failedPoll (waited n { s with inputs := inputs })) :=
  PollFails.microStep_eq (s := waited n { s with inputs := inputs }) h (some true)

theorem countDown_waited (n : Nat) (s : State) : countDown (waited n s) = { counted (n + 1) s with
    outputs := s.outputs ++ List.replicate n .waitForEvent } := by
  rw [← countDown_counted]; rfl

theorem failedPoll_waited (h : n + 1 < s.transport.tmo.toNat) : failedPoll (waited n s) = waited (n + 1) s := by
  have htmo := mt (counted_tmo_eq_zero (s := s) h.le).mp h.ne
  rw [failedPoll, countDown_waited]
  refine (if_neg htmo).trans ?_
  simp [State.emit, waited, List.replicate_succ']

/-- The first failed poll of a wait that allows for more than one. -/
theorem failedPoll_first (h : 1 < s.transport.tmo.toNat) : failedPoll s = waited 1 s := by
  have hfirst := failedPoll_waited (s := s) (n := 0) h
  rwa [waited_zero] at hfirst

theorem failedPoll_last (h : n + 1 = s.transport.tmo.toNat) : failedPoll (waited n s) =
    raise .timeout { counted s.transport.tmo.toNat s with outputs := s.outputs ++ List.replicate n .waitForEvent } := by
  rw [failedPoll, countDown_waited, h]
  exact if_pos ((counted_tmo_eq_zero le_rfl).mpr rfl)

/-- While what is awaited is not there, fewer polls than `TMO` counts wait on. -/
theorem PollFails.runOn_waits (h : PollFails s) (hn : n < s.transport.tmo.toNat) (rest : List Input) :
    runOn (polls n ++ rest) s = runOn rest (Machine.waited n s) := by
  have waits := runOn_replicate (ready := true) (n := n) (visited := (Machine.waited · s)) (fun k hk inputs =>
    have hk' : k + 1 < s.transport.tmo.toNat := by omega
    (h.waited_fails k inputs).trans (congrArg Except.ok (failedPoll_waited hk'))) rest
  rwa [waited_zero] at waits

/-- As many polls as `TMO` counts raise Timeout (60_exceptions.md R301). -/
theorem PollFails.runOn_timesOut (h : PollFails s) (htmo : s.transport.tmo ≠ 0#16) :
    runOn (polls s.transport.tmo.toNat) s = .next { raise .timeout { s with
      transport := { s.transport with tmo := 0#16 }
      outputs := s.outputs ++ List.replicate (s.transport.tmo.toNat - 1) .waitForEvent } with inputs := [] } := by
  obtain ⟨n, hn⟩ := exists_tmo_succ htmo
  have waits := h.runOn_waits (n := n) (by omega) [.poll true]
  conv_lhs => rw [hn, polls, List.replicate_succ']
  rw [hn, Nat.add_sub_cancel, ← polls, waits, runOn_one_poll, h.waited_fails,
    failedPoll_last (s := { s with inputs := [] }) hn.symm, counted_used_up]
  rfl

end

end Sys2Proof.Machine
end

section
/-! The Transport Driver (45_transport_exchange.md R262 to R268): what sets `TXDONE`, and the send from its first poll
of `TXDONE` to its last byte. -/

namespace Sys2Proof.Machine

/-- Settles O13: with the flag set the update writes what stands there. -/
theorem transmitCompleteSetsFlag : Obligations.TransmitCompleteSetsFlag := fun s =>
  ⟨rfl, fun hset => by rw [exec, execEvTxc, ← hset]⟩

/-! ## The send -/

/-- Phase B has begun: the flag seen set is cleared, the transmitter enabled, the first byte next (R263, R264). -/
def sendBegun (s : State) : State :=
  { s with
    transport := { txdone := false, tmo := s.params.txTimeout, txidx := 0 }
    task := .sendByte
    outputs := s.outputs ++ [.enableTransmit] }

/-- These bytes have gone to the transmitter, and the wait for the next is fresh (R264). -/
def transmitted (bytes : List Byte) (s : State) : State :=
  { s with
    transport := { s.transport with tmo := s.params.txTimeout, txidx := s.transport.txidx + bytes.length }
    outputs := s.outputs ++ bytes.map .transmitByte }

section
variable {s : State} {frame : List Byte}

/-- The built frame is read from the builder's registers alone. -/
theorem HoldsFrame.congr {t : State} (h : HoldsFrame s frame) (hb : t.builder = s.builder) : HoldsFrame t frame := by
  constructor <;> rw [hb]
  · exact h.length_eq
  · exact h.bytes

theorem HoldsFrame.txlen_ne_zero (h : HoldsFrame s frame) (hne : frame ≠ []) : s.builder.txlen ≠ 0#9 := fun h0 => by
  have hlen := h.length_eq
  rw [h0] at hlen
  exact hne (List.length_eq_zero_iff.mp hlen.symm)

theorem sendWaitPoll_begins (hd : s.transport.txdone = true) (hlen : s.builder.txlen ≠ 0#9) :
    sendWaitPoll s = sendBegun s := by
  rcases sendWaitPoll_cases s with ⟨-, e⟩ | ⟨hd', -⟩
  · exact e.trans (if_pos (txlen_pos hlen))
  · simp [hd] at hd'

theorem sendWaitPoll_fails (hd : s.transport.txdone = false) : sendWaitPoll s = failedPoll s :=
  if_neg (by simp [hd])

theorem sendBytePoll_ready {b : Byte} (hb : s.builder.txbuf.read s.transport.txidx = some b) :
    sendBytePoll (some true) s = .ok (nextSendByte (State.emit
      { s with transport := { s.transport with txidx := s.transport.txidx + 1 } } (.transmitByte b))) := by
  simp only [sendBytePoll, transmitReady, if_true, hb]

/-- While the frame has a byte left, phase B waits for the transmitter (R264). -/
theorem nextSendByte_more (h : s.transport.txidx < s.builder.txlen.toNat) :
    nextSendByte s = { loadTxTimeout s with task := .sendByte } := if_pos h

theorem nextSendByte_last (h : s.builder.txlen.toNat ≤ s.transport.txidx) : nextSendByte s = endSend s :=
  if_neg (Nat.not_lt.mpr h)

theorem endSend_standalone (h : s.seq.xstate.running = false) : endSend s = finish 0#16 s := if_neg (by simp [h])

/-- What comes after a byte does not depend on the inputs to come. -/
theorem nextSendByte_inputs (s : State) (inputs : List Input) :
    nextSendByte { s with inputs := inputs } = { nextSendByte s with inputs := inputs } := by
  simp only [nextSendByte, endSend, apply_ite fun t : State => { t with inputs := inputs }]
  rfl

/-- With the transmitter always ready the bytes left of the frame go out in order, one for each poll (R264). -/
theorem runOn_transmits {bytes : List Byte} (ht : s.task = .sendByte) (htmo : s.transport.tmo = s.params.txTimeout)
    (hlen : s.transport.txidx + bytes.length = s.builder.txlen.toNat)
    (hbytes : ∀ i, i < bytes.length → s.builder.txbuf.read (s.transport.txidx + i) = bytes[i]?) (rest : List Input) :
    runOn (polls bytes.length ++ rest) (nextSendByte s) = runOn rest (endSend (transmitted bytes s)) := by
  induction bytes generalizing s with
  | nil =>
    have hnone : transmitted [] s = s := by simp [transmitted, ← htmo]
    rw [nextSendByte_last hlen.ge, hnone]
    rfl
  | cons b more ih =>
    rw [List.length_cons] at hlen hbytes
    have hwaits : nextSendByte s = s := by
      rw [nextSendByte_more (by omega), loadTxTimeout, ← htmo, ← ht]
    have hb : s.builder.txbuf.read s.transport.txidx = some b := hbytes 0 (Nat.succ_pos _)
    have sent := ih (s := transmitted [b] s) ht rfl ((Nat.add_right_comm _ _ _).trans hlen) fun i hi => by
      have hnext := hbytes (i + 1) (Nat.succ_lt_succ hi)
      rw [List.getElem?_cons_succ] at hnext
      rw [← hnext]
      show s.builder.txbuf.read (s.transport.txidx + 1 + i) = _
      rw [Nat.add_assoc, Nat.add_comm 1 i]
    have hall : transmitted more (transmitted [b] s) = transmitted (b :: more) s := by
      simp [transmitted, Nat.add_assoc, Nat.add_comm 1]
    have hstep : ∀ inputs, microStep (some true) { s with inputs := inputs } =
        .ok { nextSendByte (transmitted [b] s) with inputs := inputs } := fun inputs => by
      rw [microStep_sendByte (s := { s with inputs := inputs }) _ ht,
        sendBytePoll_ready (s := { s with inputs := inputs }) hb, ← nextSendByte_inputs, transmitted, ← htmo]
      rfl
    rw [hwaits, ← hall]
    exact (runOn_poll (hstep _)).trans sent

/-- The send of a whole frame, once phase B has begun. -/
theorem HoldsFrame.runOn_sends (h : HoldsFrame s frame) (hne : frame ≠ []) (rest : List Input) :
    runOn (polls frame.length ++ rest) (sendBegun s) = runOn rest (endSend (transmitted frame (sendBegun s))) := by
  have hwaits : nextSendByte (sendBegun s) = sendBegun s := nextSendByte_more (txlen_pos (h.txlen_ne_zero hne))
  have sends := runOn_transmits (s := sendBegun s) rfl rfl ((Nat.zero_add _).trans h.length_eq.symm)
    (fun i hi => by rw [← h.bytes i hi]; exact congrArg s.builder.txbuf.read (Nat.zero_add i)) rest
  rwa [hwaits] at sends

/-! ## `T.SEND` -/

theorem execTSend_nothing_built (ha : accepting s = true) (hlen : s.builder.txlen = 0#9) :
    execTSend s = .next s.refuse := by
  rw [execTSend, request_accepted _ ha, if_pos hlen, toOutcome_ok]

theorem execTSend_polls (ha : accepting s = true) (hlen : s.builder.txlen ≠ 0#9) :
    execTSend s = .next (sendWaitPoll (startSend s)) := by
  rw [execTSend, request_accepted _ ha, if_neg hlen, toOutcome_ok]

/-- A failure of a stand-alone operation that is no parse is all that ends it (60_exceptions.md R304). -/
theorem raise_standalone {o : ExchangeOutcome} (hp : s.task.isParsing = false) (hx : s.seq.xstate.running = false) :
    raise o s = { s with task := .idle, results := s.results ++ [⟨.fail, o.code.setWidth 16⟩] } := by
  simp [raise, hp, hx]

/-- Settles O25: the two branches of the request, and of the second the two of its first poll. -/
theorem sendStarts : Obligations.SendStarts := by
  intro s ha
  obtain ⟨hstopped, hidle⟩ := (accepting_iff s).mp ha
  have hpoll := execTSend_polls ha
  refine ⟨execTSend_nothing_built ha, fun hlen hd => ?_, fun hlen hd hone => ?_, fun hlen hd hone => ?_⟩
  · exact (hpoll hlen).trans (congrArg _ (sendWaitPoll_begins (s := startSend s) hd hlen))
  · refine (hpoll hlen).trans (congrArg _ ?_)
    rw [sendWaitPoll_fails (s := startSend s) hd]
    rcases failedPoll_cases (startSend s) with ⟨h0, -⟩ | ⟨-, e⟩
    · exact absurd (sub_eq_zero.mp h0) hone
    · rw [e]; rfl
  · refine (hpoll hlen).trans (congrArg _ ?_)
    rw [sendWaitPoll_fails (s := startSend s) hd]
    rcases failedPoll_cases (startSend s) with ⟨-, e⟩ | ⟨h0, -⟩
    · rw [e, raise_standalone (s := countDown (startSend s)) rfl hstopped]
      simp [startSend, loadTxTimeout, countDown, hone, hidle, ExchangeOutcome.code]
    · exact absurd (sub_eq_zero.mpr hone) h0

theorem runOn_tSend (ha : accepting s = true) (hlen : s.builder.txlen ≠ 0#9) (rest : List Input) :
    runOn (given .tSend :: rest) s = runOn (.poll true :: rest) (startSend s) :=
  runOn_begins rfl ((execTSend_polls (s := { s with inputs := rest }) ha hlen).trans
    (congrArg toOutcome (microStep_sendWait (s := { startSend s with inputs := rest }) (some true) rfl)).symm)

/-- The poll that finds `TXDONE` set begins phase B (R263). -/
theorem runOn_sendBegins {ready : Bool} (ht : s.task = .sendWait) (hd : s.transport.txdone = true)
    (hlen : s.builder.txlen ≠ 0#9) (rest : List Input) :
    runOn (.poll ready :: rest) s = runOn rest (sendBegun s) :=
  runOn_poll ((microStep_sendWait (s := { s with inputs := rest }) _ ht).trans
    (congrArg Except.ok (sendWaitPoll_begins hd hlen)))

/-- Settles O26: the first poll begins phase B, and each of the others transmits a byte. -/
theorem sendTransmitsFrame : Obligations.SendTransmitsFrame := by
  intro s frame ha hframe hne hd
  obtain ⟨hstopped, hidle⟩ := (accepting_iff s).mp ha
  have hlen := hframe.txlen_ne_zero hne
  have started : HoldsFrame (startSend s) frame := hframe.congr rfl
  have sends := started.runOn_sends hne []
  rw [List.append_nil] at sends
  rw [runOn_tSend ha hlen, runOn_sendBegins (s := startSend s) rfl hd hlen, sends, runOn_nil,
    endSend_standalone (s := transmitted frame (sendBegun (startSend s))) hstopped]
  simp [finish, transmitted, sendBegun, startSend, loadTxTimeout, hidle]

/-- Settles O28: the failed polls by `runOn_notReady`, the others by the equations of phase B. -/
theorem sendByteTimesOut : Obligations.SendByteTimesOut := by
  refine ⟨fun s ht htmo => ?_, fun s ready ht hd hlen => ?_, fun s b ht hb => ?_⟩
  · rw [runOn_notReady ht htmo, counted_used_up]
    simp [raise, ht, Task.isParsing, ExchangeOutcome.code]
  · exact (runOn_sendBegins ht hd hlen []).trans (runOn_nil _)
  · have hsent : runOn [.poll true] s = .next (nextSendByte { s with
        transport := { s.transport with txidx := s.transport.txidx + 1 }, inputs := [],
        outputs := s.outputs ++ [.transmitByte b] }) := by
      rw [runOn_one_poll, microStep_sendByte (s := { s with inputs := [] }) _ ht,
        sendBytePoll_ready (s := { s with inputs := [] }) hb]
      rfl
    refine ⟨fun hmore => ?_, fun hlast hrun => ?_⟩
    · rw [hsent, nextSendByte_more hmore, ← ht]
      rfl
    · rw [hsent, nextSendByte_last hlast]
      exact congrArg _ (if_pos hrun)

/-- Settles O27: from `T.SEND` on, the wait has the count `TX_TIMEOUT`. -/
theorem sendWaitTimesOut : Obligations.SendWaitTimesOut := by
  refine ⟨fun s ha hlen hd htmo => ?_, fun s ht hd htmo => ?_⟩
  · obtain ⟨hstopped, hidle⟩ := (accepting_iff s).mp ha
    have waits := PollFails.runOn_timesOut (s := startSend s) (.inl ⟨rfl, hd⟩) htmo
    obtain ⟨n, hn⟩ : ∃ n, s.params.txTimeout.toNat = n + 1 := exists_tmo_succ (s := startSend s) htmo
    rw [startSend_transport, hn] at waits
    rw [runOn_tSend ha hlen, hn, Nat.add_sub_cancel]
    refine waits.trans ?_
    simp [raise, startSend, loadTxTimeout, hstopped, hidle, Task.isParsing, ExchangeOutcome.code]
  · rw [PollFails.runOn_timesOut (.inl ⟨ht, hd⟩) htmo]
    simp [raise, ht, Task.isParsing, ExchangeOutcome.code]

end

end Sys2Proof.Machine
end

section
/-! The receives of one byte (45_transport_exchange.md R266, R268): `T.RECV` and `T.EXPECT` differ in the answer that
they give to the byte. -/

namespace Sys2Proof.Machine

/-- A receive has begun, with a full count (R266). -/
def receiveBegun (k : Task) (s : State) : State := { loadRxTimeout s with task := k }

/-- This instruction receives one byte, as this operation, and answers so. -/
structure OneByteReceive (i : Instr) (k : Task) (answer : Byte → Half) : Prop where
  wf : i.wf = true
  receives : k.receives = true
  begins : ∀ s ready, accepting s = true → exec i s = toOutcome (microStep ready (receiveBegun k s))
  answers : ∀ s ready b rest, s.task = k → Queued s (b :: rest) →
    microStep ready s = .ok (finish (answer b) (dropOldest s))

theorem tRecv_receive : OneByteReceive .tRecv .recv (·.setWidth 16) where
  wf := rfl
  receives := rfl
  begins s ready ha := by
    rw [microStep_recv ready rfl, exec, execTRecv, request_accepted _ ha, receiveBegun]
  answers s ready b rest ht hq := by
    rw [microStep_recv ready ht, pollQueue, hq.pop_eq]
    rfl

theorem boolHalf_beq (b v : Byte) : boolHalf (b == v) = if b = v then 1#16 else 0#16 := by
  by_cases h : b = v <;> simp [boolHalf, h]

theorem tExpect_receive (v : Byte) : OneByteReceive (.tExpect v) (.expect v) fun b => if b = v then 1#16 else 0#16 where
  wf := rfl
  receives := rfl
  begins s ready ha := by
    rw [microStep_expect ready rfl, exec, execTExpect, request_accepted _ ha, receiveBegun]
  answers s ready b rest ht hq := by
    rw [microStep_expect ready ht, pollQueue, hq.pop_eq, ← boolHalf_beq]
    rfl

section
variable {i : Instr} {k : Task} {answer : Byte → Half} {s : State}

/-- A byte in the queue is answered at the first poll. -/
theorem OneByteReceive.exec_byte (h : OneByteReceive i k answer) {b : Byte} {rest : List Byte}
    (ha : accepting s = true) (hq : Queued s (b :: rest)) : ∃ t, exec i s = .next t ∧ Queued t rest ∧
      t.queue.buf = s.queue.buf ∧
      t = { s with queue := t.queue, transport := { s.transport with tmo := 750#16 },
                   results := s.results ++ [⟨.ok, answer b⟩] } := by
  obtain ⟨-, hidle⟩ := (accepting_iff s).mp ha
  have hbegun : Queued (receiveBegun k s) (b :: rest) := hq.congr rfl rfl
  have hexec := (h.begins s none ha).trans (congrArg toOutcome (h.answers _ none b rest rfl hbegun))
  refine ⟨_, hexec, hbegun.dropOldest.congr rfl rfl, rfl, ?_⟩
  rw [hidle]
  rfl

/-- A receive waits for 750 polls (R266). -/
theorem receiveBegun_tmo (k : Task) (s : State) : (receiveBegun k s).transport.tmo = 750#16 := rfl

theorem OneByteReceive.exec_empty (h : OneByteReceive i k answer) (ha : accepting s = true) (hq : Queued s []) :
    exec i s = .next { s with
      transport := { s.transport with tmo := 749#16 }, task := k, outputs := s.outputs ++ [.waitForEvent] } := by
  have fails : PollFails (receiveBegun k s) := .inr ⟨h.receives, hq.isEmpty_iff.mpr rfl⟩
  rw [h.begins s none ha, fails.microStep_eq, failedPoll_first (by rw [receiveBegun_tmo]; decide),
    waited_eq (v := 749#16) (by rw [receiveBegun_tmo]; decide)]
  rfl

theorem Queued.waited_receiveBegun {bytes : List Byte} (h : Queued s bytes) (n : Nat) (k : Task) :
    Queued (waited n (receiveBegun k s)) bytes := h.congr (by rw [waited, counted]; rfl) (by rw [waited, counted]; rfl)

/-- A byte that arrives while the receive waits is answered at the next poll. -/
theorem OneByteReceive.runOn_waits (h : OneByteReceive i k answer) (b : Byte) {j : Nat} (hj : j ≤ 748)
    (ha : accepting s = true) (hq : Queued s []) :
    runOn (given i :: polls j ++ [given (.evRx b), .poll true]) s = .next
      { finish (answer b) (dropOldest (receiveEvent b (waited (j + 1) (receiveBegun k s)))) with inputs := [] } := by
  have fails : PollFails (receiveBegun k s) := .inr ⟨h.receives, hq.isEmpty_iff.mpr rfl⟩
  have begins : runOn (given i :: (polls j ++ [given (.evRx b), .poll true])) s =
      runOn (polls (j + 1) ++ [given (.evRx b), .poll true]) (receiveBegun k s) :=
    runOn_begins (begun := receiveBegun k s) h.wf (h.begins { s with inputs := _ } (some true) ha)
  have hcount : j + 1 < (receiveBegun k s).transport.tmo.toNat := by rw [receiveBegun_tmo, BitVec.toNat_ofNat]; omega
  have arrived := (hq.waited_receiveBegun (j + 1) k).receive_first b
  rw [List.cons_append, begins, fails.runOn_waits hcount, runOn_evRx, runOn_one_poll,
    h.answers { receiveEvent b (waited (j + 1) (receiveBegun k s)) with inputs := [] } _ b [] rfl
      (arrived.congr rfl rfl)]
  rfl

end

/-- Settles O29: `T.RECV` is the receive that answers the byte itself. -/
theorem receiveRequest : Obligations.ReceiveRequest := fun _ ha =>
  ⟨fun _ _ hq => tRecv_receive.exec_byte ha hq, tRecv_receive.exec_empty ha⟩

/-- Settles O30: `T.EXPECT` is the receive that answers the comparison. -/
theorem expectRequest : Obligations.ExpectRequest := fun _ v ha =>
  ⟨fun _ _ hq => (tExpect_receive v).exec_byte ha hq, (tExpect_receive v).exec_empty ha⟩

/-- Settles O31, for each of the two receives by `OneByteReceive.runOn_waits`. -/
theorem receiveWaitsForByte : Obligations.ReceiveWaitsForByte := by
  intro s b v j ha hq hj row hrow
  obtain ⟨-, hidle⟩ := (accepting_iff s).mp ha
  obtain ⟨k, answer, hreceive, hanswer⟩ : ∃ k answer, OneByteReceive row.1 k answer ∧ row.2 = answer b := by
    simp only [List.mem_cons, List.not_mem_nil, or_false] at hrow
    obtain rfl | rfl := hrow
    · exact ⟨_, _, tRecv_receive, rfl⟩
    · exact ⟨_, _, tExpect_receive v, rfl⟩
  have arrived := (hq.waited_receiveBegun (j + 1) k).receive_first b
  have hcount : 750#16 - BitVec.ofNat 16 (j + 1) = BitVec.ofNat 16 (749 - j) :=
    BitVec.eq_of_toNat_eq (by simp only [BitVec.toNat_sub, BitVec.toNat_ofNat]; omega)
  refine ⟨_, hreceive.runOn_waits b hj ha hq, arrived.dropOldest.congr rfl rfl,
    fun a hne => Memory.read_write_other _ b hne, ?_⟩
  simp [hanswer, hidle, ← hcount, waited, counted, receiveBegun, loadRxTimeout, Config.rxTimeout, dropOldest, finish]

end Sys2Proof.Machine
end

section
/-! The echo verifier (45_transport_exchange.md R275): what it does with one byte, its first poll, and the count of
every wait for a byte. -/

namespace Sys2Proof.Machine

/-! ## One byte -/

/-- The echo has matched up to this index of the frame (R275). -/
def echoAt (i : Nat) (s : State) : State := { s with seq := { s.seq with eidx := BitVec.ofNat 9 i } }

section
variable {s : State} {frame before rest : List Byte} {b : Byte} {i k : Nat}

theorem HoldsFrame.length_lt (h : HoldsFrame s frame) : frame.length < 512 := h.length_eq ▸ s.builder.txlen.isLt

theorem HoldsFrame.read_eq (h : HoldsFrame s frame) (hi : i < frame.length) :
    s.builder.txbuf.read i = some frame[i] :=
  (h.bytes i hi).trans (List.getElem?_eq_getElem hi)

/-- The first byte of an echo may be the pad or the first magic byte (R275). -/
theorem HoldsFrame.echoByte_first (h : HoldsFrame s frame) (hlen : 2 ≤ frame.length) (he : s.seq.eidx = 0#9) :
    echoByte b s = .ok (if frame[0]? = some b then echoMatched 1#9 s
      else if frame[1]? = some b then echoMatched 2#9 s else raise .echoMismatch s) := by
  have h0 : 0 < frame.length := by omega
  simp only [echoByte, he, if_true, h.read_eq h0, h.read_eq hlen, List.getElem?_eq_getElem h0,
    List.getElem?_eq_getElem hlen, Option.some_inj, eq_comm (b := b), apply_ite Except.ok]

/-- Every later byte must be the frame's (R275). -/
theorem HoldsFrame.echoByte_later (h : HoldsFrame s frame) (hi : i < frame.length) (hpos : 0 < i)
    (he : s.seq.eidx = BitVec.ofNat 9 i) :
    echoByte b s = .ok (if frame[i]? = some b then echoMatched (BitVec.ofNat 9 (i + 1)) s
      else raise .echoMismatch s) := by
  have hidx : s.seq.eidx.toNat = i := by
    have := h.length_lt
    rw [he, BitVec.toNat_ofNat]; omega
  have hne : s.seq.eidx ≠ 0#9 := fun h0 => by rw [h0] at hidx; exact hpos.ne hidx
  rw [BitVec.ofNat_add, ← he]
  simp only [echoByte, if_neg hne, hidx, h.read_eq hi, List.getElem?_eq_getElem hi, Option.some_inj, eq_comm (b := b),
    apply_ite Except.ok]

/-- A byte that matched is not the frame's last: the next is awaited with a fresh count. -/
theorem HoldsFrame.echoMatched_more (h : HoldsFrame s frame) (hi : i < frame.length) :
    echoMatched (BitVec.ofNat 9 i) s = loadRxTimeout (echoAt i s) := by
  have hlen := h.length_lt
  refine if_pos ?_
  rw [BitVec.toNat_ofNat]
  show _ < s.builder.txlen.toNat
  rw [h.length_eq]
  omega

theorem HoldsFrame.echoMatched_last (h : HoldsFrame s frame) :
    echoMatched (BitVec.ofNat 9 frame.length) s = endEcho (echoAt frame.length s) := by
  have hlen := h.length_lt
  refine if_neg ?_
  rw [BitVec.toNat_ofNat]
  show ¬ _ < s.builder.txlen.toNat
  rw [h.length_eq]
  omega

/-- What comes after a byte that matched does not depend on the inputs to come. -/
theorem echoMatched_inputs (i : BitVec 9) (s : State) (inputs : List Input) :
    echoMatched i { s with inputs := inputs } = { echoMatched i s with inputs := inputs } := by
  simp only [echoMatched, endEcho, apply_ite fun t : State => { t with inputs := inputs }]
  rfl

/-- A micro-step of the echo verifier takes the oldest byte of the queue. -/
theorem microStep_echoByte (ready : Option Bool) (ht : s.task = .echo) (hq : Queued s (b :: rest)) :
    microStep ready s = echoByte b (dropOldest s) := by
  rw [microStep_echo ready ht, pollQueue, hq.pop_eq]

/-! ## Every wait for a byte has its own count -/

/-- The use of a byte left the queue alone, and where it awaits one more byte, a full count (10_state.md R29,
45_transport_exchange.md R266). -/
structure ByteTaken (s t : State) : Prop where
  queue : t.queue = s.queue
  params : t.params = s.params
  count : t.task = .parse ∨ t.task = .echo → t.transport.tmo = Config.rxTimeout

theorem ByteTaken.ended {t : State} (hq : t.queue = s.queue) (hp : t.params = s.params)
    (ht : t.task = .idle ∨ t.task = .dispatch) : ByteTaken s t :=
  ⟨hq, hp, fun h => by rcases ht with ht | ht <;> simp [ht] at h⟩

theorem nextPayload_taken (s : State) : ByteTaken s (nextPayload s) := by
  rcases nextPayload_cases s with ⟨-, e⟩ | ⟨-, e⟩
  · rw [e]; exact ⟨rfl, rfl, fun _ => rfl⟩
  · rcases endPayload_cases s with ⟨-, e'⟩ | ⟨-, e'⟩
    · rw [e, e']; exact .ended rfl rfl (.inr rfl)
    · rw [e, e']; exact ⟨rfl, rfl, fun _ => rfl⟩

theorem syncByte_taken (b : Byte) (s : State) : ByteTaken s (syncByte b s) := by
  rcases syncByte_cases b s with ⟨-, -, e⟩ | ⟨-, n, -, ⟨-, e⟩ | ⟨-, e⟩⟩
  · rw [e]; exact ⟨rfl, rfl, fun _ => rfl⟩
  · rw [e]; exact ⟨rfl, rfl, fun _ => rfl⟩
  · rw [e]; exact .ended rfl rfl (.inl rfl)

theorem crcStageByte_taken (b : Byte) (s : State) : ByteTaken s (crcStageByte b s) := by
  rcases crcStageByte_cases b s with ⟨-, e⟩ | ⟨-, e⟩
  · rw [e]; exact .ended rfl rfl (.inr rfl)
  · rw [e]; exact .ended rfl rfl (.inl rfl)

theorem parseByte_taken (b : Byte) (s : State) : ∃ t, parseByte b s = .ok t ∧ ByteTaken s t := by
  refine ⟨_, rfl, ?_⟩
  split
  · exact syncByte_taken b s
  · exact syncByte_taken b s
  · exact ⟨rfl, rfl, fun _ => rfl⟩
  · obtain ⟨hq, hp, hcount⟩ := nextPayload_taken { s with parser := { s.parser with
      pstate := .pay, rxlen := b, rxcrc := crc8Step s.parser.rxcrc b, pidx := 0#8 } }
    exact ⟨hq, hp, hcount⟩
  · obtain ⟨hq, hp, hcount⟩ := nextPayload_taken { s with parser := { s.parser with
      pb := s.parser.pb.write s.parser.pidx.toNat b, rxcrc := crc8Step s.parser.rxcrc b,
      pidx := s.parser.pidx + 1#8 } }
    exact ⟨hq, hp, hcount⟩
  · exact crcStageByte_taken b s

theorem echoMatched_taken (i : BitVec 9) (s : State) : ByteTaken s (echoMatched i s) := by
  rcases echoMatched_cases i s with ⟨-, e⟩ | ⟨-, e⟩
  · rw [e]; exact ⟨rfl, rfl, fun _ => rfl⟩
  · rcases endEcho_cases { s with seq := { s.seq with eidx := i } } with ⟨-, e'⟩ | ⟨-, e'⟩
    · rw [e, e']; exact ⟨rfl, rfl, fun _ => rfl⟩
    · rw [e, e']; exact .ended rfl rfl (.inl rfl)

theorem HoldsFrame.echoByte_taken (h : HoldsFrame s frame) (hlen : 2 ≤ frame.length)
    (he : s.seq.eidx.toNat < frame.length) (b : Byte) : ∃ t, echoByte b s = .ok t ∧ ByteTaken s t := by
  have mismatch : ByteTaken s (raise .echoMismatch s) := .ended rfl rfl (.inl rfl)
  by_cases h0 : s.seq.eidx = 0#9
  · refine ⟨_, h.echoByte_first hlen h0, ?_⟩
    split_ifs
    · exact echoMatched_taken _ s
    · exact echoMatched_taken _ s
    · exact mismatch
  · have hidx : s.seq.eidx = BitVec.ofNat 9 s.seq.eidx.toNat := by simp
    refine ⟨_, h.echoByte_later he (txlen_pos h0) hidx, ?_⟩
    split_ifs
    · exact echoMatched_taken _ s
    · exact mismatch

/-- Settles O32: the failed polls by `PollFails.runOn_timesOut`; a byte taken leaves a full count by `ByteTaken`. -/
theorem receiveWaitTimesOut : Obligations.ReceiveWaitTimesOut := by
  refine ⟨fun s ht hq htmo => ?_, fun s b rest frame ready hq htask => ?_⟩
  · have fails : PollFails s := .inr ⟨(Task.receives_iff _).mpr ht, hq.isEmpty_iff.mpr rfl⟩
    rw [fails.runOn_timesOut htmo]
    rcases ht with ht | ⟨v, ht⟩ | ht | ht <;> simp [raise, ht, Task.isParsing, ExchangeOutcome.code]
  · have hq' : Queued { s with inputs := [] } (b :: rest) := hq.congr rfl rfl
    obtain ⟨t, ht, taken⟩ : ∃ t, microStep (some ready) { s with inputs := [] } = .ok t ∧
        ByteTaken (dropOldest { s with inputs := [] }) t := by
      rcases htask with hparse | ⟨hecho, hframe, hlen, he⟩
      · rw [microStep_parse (s := { s with inputs := [] }) _ hparse, pollQueue, hq'.pop_eq]
        exact parseByte_taken b _
      · rw [microStep_echoByte (s := { s with inputs := [] }) _ hecho hq']
        exact HoldsFrame.echoByte_taken (s := dropOldest { s with inputs := [] }) (hframe.congr rfl) hlen he b
    exact ⟨t, (runOn_one_poll _ _).trans (congrArg toOutcome ht), hq'.dropOldest.congr taken.queue taken.params,
      taken.count⟩

/-! ## `X.ECHO` -/

theorem execXEcho_polls (ha : accepting s = true) (hlen : s.builder.txlen ≠ 0#9) (ready : Option Bool) :
    execXEcho s = toOutcome (microStep ready (startEcho s)) := by
  rw [execXEcho, request_accepted _ ha, if_neg hlen, microStep_echo ready rfl]

/-- The frame that a build leaves begins with the pad and the first magic byte (30_encoding.md R90). -/
theorem builtFrame_eq_cons (cmd : Byte) (payload : List Byte) :
    ∃ tail, builtFrame cmd payload = 0x00#8 :: 0xAA#8 :: tail := ⟨_, rfl⟩

/-- Settles O33: a failed poll, or the three cases of the first byte. -/
theorem echoStarts : Obligations.EchoStarts := by
  intro s ha
  obtain ⟨hstopped, hidle⟩ := (accepting_iff s).mp ha
  refine ⟨fun hlen => ?_, fun cmd payload _ hframe => ?_⟩
  · show execXEcho s = _
    rw [execXEcho, request_accepted _ ha, if_pos hlen]
    rfl
  obtain ⟨tail, htail⟩ := builtFrame_eq_cons cmd payload
  have hpolls := execXEcho_polls ha (hframe.txlen_ne_zero (by simp [htail])) none
  have hlen : 2 < (builtFrame cmd payload).length := by rw [builtFrame_length]; omega
  refine ⟨fun hq => ?_, fun b rest hq => ?_⟩
  · have fails : PollFails (startEcho s) := .inr ⟨rfl, hq.isEmpty_iff.mpr rfl⟩
    have htmo : (startEcho s).transport.tmo = 750#16 := rfl
    refine hpolls.trans ?_
    rw [fails.microStep_eq, failedPoll_first (by rw [htmo]; decide), waited_eq (v := 749#16) (by rw [htmo]; decide)]
    rfl
  · have begun : Queued (startEcho s) (b :: rest) := hq.congr rfl rfl
    have hframe' : HoldsFrame (dropOldest (startEcho s)) (builtFrame cmd payload) := hframe.congr rfl
    have hbyte := hframe'.echoByte_first (b := b) hlen.le rfl
    rw [microStep_echoByte none rfl begun, hbyte, hframe'.echoMatched_more (i := 1) (by omega),
      hframe'.echoMatched_more (i := 2) hlen, htail] at hpolls
    simp only [List.getElem?_cons_zero, List.getElem?_cons_succ, Option.some_inj, eq_comm (b := b)] at hpolls
    by_cases h0 : b = 0x00#8
    · simp only [h0, if_true, true_or] at hpolls ⊢
      exact ⟨_, hpolls, begun.dropOldest.congr rfl rfl, rfl, rfl⟩
    by_cases h1 : b = 0xAA#8
    · simp only [h1, if_neg (show 0xAA#8 ≠ 0x00#8 by decide), if_true, or_true] at hpolls ⊢
      exact ⟨_, hpolls, begun.dropOldest.congr rfl rfl, rfl, rfl⟩
    · simp only [h0, h1, if_false, or_self] at hpolls ⊢
      rw [raise_standalone (s := dropOldest (startEcho s)) rfl hstopped] at hpolls
      exact ⟨_, hpolls, begun.dropOldest.congr rfl rfl, rfl, rfl⟩

end

end Sys2Proof.Machine
end

section
/-! The echo verifier on bytes that are queued (45_transport_exchange.md R275): an echo that follows the frame, with its
pad or without, up to the frame's end or to a byte that differs. -/

namespace Sys2Proof.Machine

/-- These bytes echo the frame up to index `k`, with its pad or, from index 2 on, without. -/
def EchoOf (frame before : List Byte) (k : Nat) : Prop :=
  before = frame.take k ∨ (2 ≤ k ∧ before = (frame.take k).tail)

/-- The echo verifier has begun on a frame that starts as R90 has it, and nothing has matched yet (R275). -/
structure EchoBegun (s : State) (frame : List Byte) : Prop where
  holds : HoldsFrame s frame
  starts : ∃ tail, frame = 0x00#8 :: 0xAA#8 :: tail
  task : s.task = .echo
  tmo : s.transport.tmo = Config.rxTimeout
  eidx : s.seq.eidx = 0#9

section
variable {s : State} {frame before rest tail : List Byte} {b p m : Byte} {k : Nat}

/-- An echo begins with the pad or with the first magic byte, and goes on with the frame's next bytes. -/
theorem EchoOf.eq_cons (h : EchoOf (p :: m :: tail) before k) (hpos : 0 < k) (hk : k ≤ (p :: m :: tail).length) :
    ∃ i b bytes, before = b :: bytes ∧ ((i = 1 ∧ b = p) ∨ (i = 2 ∧ b = m)) ∧
      i + bytes.length = k ∧ (p :: m :: tail).drop i = bytes ++ (p :: m :: tail).drop k := by
  simp only [List.length_cons] at hk
  rcases h with rfl | ⟨h2, rfl⟩
  · obtain ⟨j, rfl⟩ : ∃ j, k = j + 1 := ⟨k - 1, by omega⟩
    refine ⟨1, p, (m :: tail).take j, rfl, .inl ⟨rfl, rfl⟩, ?_, (List.take_append_drop j _).symm⟩
    rw [List.length_take, List.length_cons]; omega
  · obtain ⟨j, rfl⟩ : ∃ j, k = j + 2 := ⟨k - 2, by omega⟩
    refine ⟨2, m, tail.take j, rfl, .inr ⟨rfl, rfl⟩, ?_, (List.take_append_drop j _).symm⟩
    rw [List.length_take]; omega

theorem HoldsFrame.echoByte_matches (h : HoldsFrame s frame) (hpos : 0 < k) (hb : frame[k]? = some b) :
    echoByte b (echoAt k s) = .ok (echoMatched (BitVec.ofNat 9 (k + 1)) s) := by
  have hk := (List.getElem?_eq_some_iff.mp hb).1
  rw [(h.congr (t := echoAt k s) rfl).echoByte_later hk hpos rfl, if_pos hb]
  rfl

/-- A byte that is not the frame's at this index, and at index 0 not the first magic byte either, is a mismatch. -/
theorem HoldsFrame.echoByte_differs (h : HoldsFrame s frame) (hlen : 2 ≤ frame.length) (hk : k < frame.length)
    (hne : frame[k]? ≠ some b) (hfirst : k = 0 → frame[1]? ≠ some b) :
    echoByte b (echoAt k s) = .ok (raise .echoMismatch (echoAt k s)) := by
  have hframe := h.congr (t := echoAt k s) rfl
  rcases Nat.eq_zero_or_pos k with rfl | hpos
  · rw [hframe.echoByte_first hlen rfl, if_neg hne, if_neg (hfirst rfl)]
  · rw [hframe.echoByte_later hk hpos rfl, if_neg hne]

/-- Queued bytes that are the frame's next match, one for each poll. -/
theorem HoldsFrame.runOn_echo {i : Nat} {bytes more : List Byte} (h : HoldsFrame s frame) (ht : s.task = .echo)
    (htmo : s.transport.tmo = Config.rxTimeout) (hpos : 0 < i) (hnext : frame.drop i = bytes ++ more)
    (hq : Queued s (bytes ++ rest)) (inputs : List Input) :
    ∃ q, runOn (polls bytes.length ++ inputs) (echoMatched (BitVec.ofNat 9 i) s) =
        runOn inputs (echoMatched (BitVec.ofNat 9 (i + bytes.length)) { s with queue := q }) ∧
      Queued { s with queue := q } rest ∧ q.buf = s.queue.buf := by
  induction bytes generalizing i s with
  | nil => exact ⟨s.queue, rfl, hq, rfl⟩
  | cons b bytes ih =>
    have hb : frame[i]? = some b := by
      rw [← List.head?_drop, hnext]; rfl
    have hi := (List.getElem?_eq_some_iff.mp hb).1
    have hrest : frame.drop (i + 1) = bytes ++ more := by
      rw [← List.tail_drop, hnext]; rfl
    obtain ⟨q, hrun, hmore, hbuf⟩ := ih (s := dropOldest s) (h.congr rfl) ht htmo i.succ_pos hrest hq.dropOldest
    have hstep : ∀ inputs, microStep (some true) { echoAt i s with inputs := inputs } =
        .ok { echoMatched (BitVec.ofNat 9 (i + 1)) (dropOldest s) with inputs := inputs } := fun inputs => by
      rw [microStep_echoByte (s := { echoAt i s with inputs := inputs }) (some true) ht (hq.congr rfl rfl),
        ← echoMatched_inputs]
      exact (h.congr (t := dropOldest { s with inputs := inputs }) rfl).echoByte_matches hpos hb
    refine ⟨q, ?_, hmore, hbuf⟩
    have hindex : i + (b :: bytes).length = i + 1 + bytes.length := by rw [List.length_cons]; omega
    rw [h.echoMatched_more hi, loadRxTimeout_loaded (s := echoAt i s) htmo, hindex]
    exact (runOn_poll (s := echoAt i s) (hstep _)).trans hrun

/-- An echo with or without its pad, queued when the verifier begins, matches up to its last byte. -/
theorem EchoBegun.runOn_echoOf (h : EchoBegun s frame) (hb : EchoOf frame before k) (hpos : 0 < k)
    (hk : k ≤ frame.length) (hq : Queued s (before ++ rest)) (inputs : List Input) :
    ∃ q, runOn (polls before.length ++ inputs) s =
        runOn inputs (echoMatched (BitVec.ofNat 9 k) { s with queue := q }) ∧
      Queued { s with queue := q } rest ∧ q.buf = s.queue.buf := by
  obtain ⟨tail, rfl⟩ := h.starts
  obtain ⟨i, b, bytes, rfl, hfirst, rfl, hnext⟩ := hb.eq_cons hpos hk
  have hbyte : ∀ inputs, echoByte b (dropOldest { s with inputs := inputs }) =
      .ok (echoMatched (BitVec.ofNat 9 i) (dropOldest { s with inputs := inputs })) := fun inputs => by
    have first := (h.holds.congr (t := dropOldest { s with inputs := inputs }) rfl).echoByte_first (b := b)
      (by simp) h.eidx
    rcases hfirst with ⟨rfl, rfl⟩ | ⟨rfl, rfl⟩
    · exact first.trans (congrArg _ (if_pos rfl))
    · exact first.trans (congrArg _ ((if_neg (by simp)).trans (if_pos rfl)))
  have hstep : ∀ inputs, microStep (some true) { s with inputs := inputs } =
      .ok { echoMatched (BitVec.ofNat 9 i) (dropOldest s) with inputs := inputs } := fun inputs => by
    rw [microStep_echoByte (s := { s with inputs := inputs }) (some true) h.task (hq.congr rfl rfl), hbyte,
      ← echoMatched_inputs]
    rfl
  have hi : 0 < i := by rcases hfirst with ⟨rfl, -⟩ | ⟨rfl, -⟩ <;> decide
  obtain ⟨q, hrun, hrest, hbuf⟩ :=
    (h.holds.congr (t := dropOldest s) rfl).runOn_echo h.task h.tmo hi hnext hq.dropOldest inputs
  exact ⟨q, (runOn_poll (hstep _)).trans hrun, hrest, hbuf⟩

/-- An echo of the whole frame, with or without its pad, completes (R275). -/
theorem EchoBegun.runOn_whole {echo : List Byte} (h : EchoBegun s frame) (hecho : echo = frame ∨ echo = frame.tail)
    (hq : Queued s (echo ++ rest)) (inputs : List Input) : ∃ q, runOn (polls echo.length ++ inputs) s =
        runOn inputs (endEcho (echoAt frame.length { s with queue := q })) ∧
      Queued { s with queue := q } rest ∧ q.buf = s.queue.buf := by
  have hlen : 2 ≤ frame.length := by
    obtain ⟨tail, rfl⟩ := h.starts
    simp
  have hof : EchoOf frame echo frame.length := by
    rw [EchoOf, List.take_length]
    exact hecho.imp_right fun e => ⟨hlen, e⟩
  obtain ⟨q, hrun, hrest, hbuf⟩ := h.runOn_echoOf hof (by omega) le_rfl hq inputs
  have hlast := (h.holds.congr (t := { s with queue := q }) rfl).echoMatched_last
  exact ⟨q, hrun.trans (congrArg (runOn inputs) hlast), hrest, hbuf⟩

/-- The bytes before the one that diverges match; the verifier then awaits that one. -/
theorem EchoBegun.runOn_before (h : EchoBegun s frame) (hb : EchoOf frame before k) (hk : k < frame.length)
    (hq : Queued s (before ++ rest)) (inputs : List Input) : ∃ q, runOn (polls before.length ++ inputs) s =
        runOn inputs (echoAt k { s with queue := q }) ∧
      Queued { s with queue := q } rest ∧ q.buf = s.queue.buf := by
  rcases Nat.eq_zero_or_pos k with rfl | hpos
  · obtain rfl | ⟨h2, -⟩ := hb
    · have hstart : echoAt 0 s = s := by rw [echoAt, ← h.eidx]
      exact ⟨s.queue, congrArg (runOn inputs) hstart.symm, hq, rfl⟩
    · omega
  · obtain ⟨q, hrun, hrest, hbuf⟩ := h.runOn_echoOf hb hpos hk.le hq inputs
    have awaits := (h.holds.congr (t := { s with queue := q }) rfl).echoMatched_more hk
    rw [loadRxTimeout_loaded (s := echoAt k { s with queue := q }) h.tmo] at awaits
    exact ⟨q, hrun.trans (congrArg (runOn inputs) awaits), hrest, hbuf⟩

/-- An echo that diverges at index `k`, queued when the verifier begins, raises EchoMismatch there (R275,
60_exceptions.md R303). -/
theorem EchoBegun.runOn_diverges (h : EchoBegun s frame) (hd : EchoDiverges frame before b k)
    (hq : Queued s (before ++ b :: rest)) : ∃ q, runOn (polls (before.length + 1)) s =
        .next { raise .echoMismatch (echoAt k { s with queue := q }) with inputs := [] } ∧
      Queued { s with queue := q } rest ∧ q.buf = s.queue.buf := by
  obtain ⟨hk, hne, hfirst, hbefore⟩ := hd
  have hlen : 2 ≤ frame.length := by
    obtain ⟨tail, rfl⟩ := h.starts
    simp
  obtain ⟨q, hrun, hrest, hbuf⟩ := h.runOn_before hbefore hk hq [.poll true]
  have hbyte := (h.holds.congr (t := dropOldest { s with queue := q, inputs := [] }) rfl).echoByte_differs hlen hk hne
    hfirst
  have hlast := microStep_echoByte (s := { echoAt k { s with queue := q } with inputs := [] }) (some true) h.task
    (hrest.congr rfl rfl)
  refine ⟨(dropOldest { s with queue := q }).queue, ?_, hrest.dropOldest, hbuf⟩
  rw [polls, List.replicate_succ', ← polls]
  exact hrun.trans ((runOn_one_poll _ _).trans (congrArg toOutcome (hlast.trans hbyte)))

theorem endEcho_standalone (h : s.seq.xstate.running = false) : endEcho s = finish 0#16 s := if_neg (by simp [h])

/-! ## `X.ECHO` -/

variable {cmd : Byte} {payload : List Byte}

theorem startEcho_begun (h : HoldsFrame s (builtFrame cmd payload)) :
    EchoBegun (startEcho s) (builtFrame cmd payload) :=
  ⟨h.congr rfl, builtFrame_eq_cons cmd payload, rfl, rfl, rfl⟩

theorem runOn_xEcho (ha : accepting s = true) (h : HoldsFrame s frame) (hne : frame ≠ []) (n : Nat) :
    runOn (given .xEcho :: polls n) s = runOn (polls (n + 1)) (startEcho s) :=
  runOn_begins (begun := startEcho s) rfl
    (execXEcho_polls (s := { s with inputs := polls n }) ha (h.txlen_ne_zero hne) (some true))

end

/-- Settles O34: stand-alone the answer is all that ends the echo. -/
theorem echoPasses : Obligations.EchoPasses := by
  intro s cmd payload stream rest ha _ hframe hstream hq
  obtain ⟨hstopped, hidle⟩ := (accepting_iff s).mp ha
  have hlen := builtFrame_length cmd payload
  have hcount : stream.length - 1 + 1 = stream.length := by
    rcases hstream with rfl | rfl
    · rw [hlen]; rfl
    · rw [List.length_tail, hlen]; rfl
  have hstart := runOn_xEcho ha hframe (List.cons_ne_nil _ _) (stream.length - 1)
  obtain ⟨q, hrun, hrest, hbuf⟩ := (startEcho_begun hframe).runOn_whole hstream (hq.congr rfl rfl) []
  rw [List.append_nil, runOn_nil, endEcho_standalone
    (s := echoAt (builtFrame cmd payload).length { startEcho s with queue := q }) hstopped] at hrun
  rw [hcount] at hstart
  refine ⟨_, hstart.trans hrun, hrest.congr rfl rfl, hbuf, ?_⟩
  rw [hidle, ← hlen]
  rfl

/-- Settles O35: stand-alone the mismatch is all that ends the echo. -/
theorem echoDivergenceStops : Obligations.EchoDivergenceStops := by
  intro s cmd b payload before rest k ha _ hframe hd hq
  obtain ⟨hstopped, hidle⟩ := (accepting_iff s).mp ha
  have hstart := runOn_xEcho ha hframe (List.cons_ne_nil _ _) before.length
  obtain ⟨q, hrun, hrest, hbuf⟩ := (startEcho_begun hframe).runOn_diverges hd (hq.congr rfl rfl)
  rw [raise_standalone (s := echoAt k { startEcho s with queue := q }) rfl hstopped] at hrun
  refine ⟨_, hstart.trans hrun, hrest.congr rfl rfl, hbuf, ?_⟩
  rw [hidle]
  rfl

end Sys2Proof.Machine
end

section
/-! The stage `SEND` of an exchange (45_transport_exchange.md R280 to R284): the build, the preparation of the link, and
the frame on the wire. -/

namespace Sys2Proof.Machine

/-! ## The stage `SEND` -/

/-- The state in which an accepted `X.CMD` leaves the block (R280, R281). -/
def exchangeBegun (cmd : Byte) (payload : List Byte) (s : State) : State :=
  withFrame cmd payload { s with seq := { s.seq with outvalid := false, xstate := .send }, task := .clearQueue }

/-- The queue is cleared, the baud controller was invoked, the attempt is counted, the send begins (R281 to R284). -/
def linkPrepared (s : State) : State :=
  { s with
    queue := { s.queue with head := 0, tail := 0, full := false }
    outputs := (baudStep s).outputs
    link := { (baudStep s).link with sent := (baudStep s).link.sent + 1#16 }
    transport := { s.transport with tmo := s.params.txTimeout }
    task := .sendWait }

section
variable {s t : State} {request : List Byte}

theorem PayloadLoaded.execXCmd_eq (h : PayloadLoaded s request) (ha : accepting s = true) (cmd : Byte) :
    execXCmd cmd s = .next (exchangeBegun cmd request s) := by
  have loaded : PayloadLoaded { s with
    seq := { s.seq with outvalid := false, xstate := .send }, task := .clearQueue } request := ⟨h.length_eq, h.bytes⟩
  rw [execXCmd, request_accepted _ ha, loaded.buildFrame_eq, toOutcome_ok, exchangeBegun]

/-- Settles O46: the build of `FB.BUILD`, in the state `SEND`. -/
theorem exchangeStarts : Obligations.ExchangeStarts := fun s cmd _ ha hload =>
  ⟨_, hload.execXCmd_eq ha cmd, { frameBuilt_withFrame cmd s hload.length_le with }, rfl⟩

/-- The controller reads the link, and adds to the outputs; nothing else counts for it (44_baud.md R230). -/
theorem baudStep_eq (hlink : t.link = s.link) (hout : t.outputs = s.outputs) :
    baudStep t = { t with link := (baudStep s).link, outputs := (baudStep s).outputs } := by
  obtain ⟨hl, ho⟩ : (baudStep t).link = (baudStep s).link ∧ (baudStep t).outputs = (baudStep s).outputs := by
    simp only [baudStep, hlink]
    split_ifs
    · exact ⟨rfl, hout⟩
    · exact ⟨rfl, by rw [reconfigure_outputs, reconfigure_outputs, hout]⟩
    · exact ⟨rfl, hout⟩
  rw [baudStep_frame, hl, ho]

/-- The micro-steps of `SEND` before the transmission. -/
theorem runOn_prepares (ht : s.task = .clearQueue) (rest : List Input) :
    runOn (polls 3 ++ rest) s = runOn rest (linkPrepared s) := by
  have controls : ∀ inputs, microStep (some true) { clearQueue s with task := .stepBaud, inputs := inputs } =
      .ok { clearQueue s with
        link := (baudStep s).link, outputs := (baudStep s).outputs, task := .countSent, inputs := inputs } := by
    intro inputs
    rw [microStep_stepBaud (some true) rfl,
      baudStep_eq (s := s) (t := { clearQueue s with task := .stepBaud, inputs := inputs }) rfl rfl]
  calc runOn (polls 3 ++ rest) s
    _ = runOn (polls 2 ++ rest) { clearQueue s with task := .stepBaud } :=
      runOn_poll (microStep_clearQueue (s := { s with inputs := _ }) (some true) ht)
    _ = runOn (polls 1 ++ rest) { clearQueue s with
          link := (baudStep s).link, outputs := (baudStep s).outputs, task := .countSent } :=
      runOn_poll (s := { clearQueue s with task := .stepBaud }) (controls _)
    _ = runOn rest (linkPrepared s) := runOn_poll (microStep_countSent (some true) rfl)

/-- Settles O47: the three micro-steps leave the link prepared. -/
theorem exchangePreparesLink : Obligations.ExchangePreparesLink := fun _ ht =>
  (runOn_prepares ht []).trans (runOn_nil _)

/-! ## The frame on the wire -/

theorem FrameBuilt.holdsFrame {cmd : Byte} (h : FrameBuilt cmd request s t) :
    HoldsFrame t (builtFrame cmd request) where
  length_eq := h.txlen.trans (builtFrame_length cmd request).symm
  bytes i hi := by
    rw [h.txbuf, if_pos (by rwa [builtFrame_length] at hi)]

/-- The exchange once the frame is transmitted: it awaits the echo (R284, R285). -/
def frameSent (cmd : Byte) (request : List Byte) (s : State) : State :=
  { withFrame cmd request s with
    queue := { s.queue with head := 0, tail := 0, full := false }
    transport := { txdone := false, tmo := Config.rxTimeout, txidx := (builtFrame cmd request).length }
    link := { (baudStep s).link with sent := (baudStep s).link.sent + 1#16 }
    seq := { s.seq with xstate := .awaitEcho, eidx := 0#9, outvalid := false }
    task := .echo
    outputs := (baudStep s).outputs ++ .enableTransmit :: (builtFrame cmd request).map .transmitByte }

/-- The last byte of an exchange's frame moves `XSTATE` to `AWAIT_ECHO` and begins the echo (R284, R285). -/
theorem endSend_frameSent (cmd : Byte) (request : List Byte) (s : State) :
    endSend (transmitted (builtFrame cmd request) (sendBegun (linkPrepared (exchangeBegun cmd request s)))) =
      frameSent cmd request s := by
  have hbaud : baudStep (exchangeBegun cmd request s) = { exchangeBegun cmd request s with
      link := (baudStep s).link, outputs := (baudStep s).outputs } := baudStep_eq rfl rfl
  refine (if_pos rfl).trans ?_
  rw [linkPrepared, hbaud]
  simp [frameSent, transmitted, sendBegun, startEcho, exchangeBegun, withFrame, loadRxTimeout]

/-- From `X.CMD` to the last byte transmitted, with the previous transfer complete and ENV always ready. -/
theorem PayloadLoaded.runOn_frameSent (h : PayloadLoaded s request) (ha : accepting s = true)
    (hd : s.transport.txdone = true) (cmd : Byte) (rest : List Input) :
    runOn (given (.xCmd cmd) :: (polls (4 + (builtFrame cmd request).length) ++ rest)) s =
      runOn rest (frameSent cmd request s) := by
  have hne : builtFrame cmd request ≠ [] := List.cons_ne_nil _ _
  have hpolls : polls (4 + (builtFrame cmd request).length) ++ rest =
      polls 3 ++ (.poll true :: (polls (builtFrame cmd request).length ++ rest)) := by
    simp [polls, Nat.add_comm 4, List.replicate_succ]
  have sending : HoldsFrame (linkPrepared (exchangeBegun cmd request s)) (builtFrame cmd request) :=
    (frameBuilt_withFrame cmd s h.length_le).holdsFrame.congr rfl
  calc runOn (given (.xCmd cmd) :: (polls (4 + (builtFrame cmd request).length) ++ rest)) s
    _ = runOn (polls (4 + (builtFrame cmd request).length) ++ rest) (exchangeBegun cmd request s) :=
      runOn_given (s := s) rfl (PayloadLoaded.execXCmd_eq
        (s := { s with inputs := polls (4 + (builtFrame cmd request).length) ++ rest }) ⟨h.length_eq, h.bytes⟩ ha cmd)
    _ = runOn (.poll true :: (polls (builtFrame cmd request).length ++ rest))
          (linkPrepared (exchangeBegun cmd request s)) := by rw [hpolls, runOn_prepares rfl]
    _ = runOn (polls (builtFrame cmd request).length ++ rest)
          (sendBegun (linkPrepared (exchangeBegun cmd request s))) :=
      runOn_sendBegins (s := linkPrepared (exchangeBegun cmd request s)) rfl hd (sending.txlen_ne_zero hne) _
    _ = runOn rest (endSend (transmitted (builtFrame cmd request)
          (sendBegun (linkPrepared (exchangeBegun cmd request s))))) := sending.runOn_sends hne rest
    _ = runOn rest (frameSent cmd request s) := congrArg (runOn rest) (endSend_frameSent cmd request s)

end

end Sys2Proof.Machine
end

section
/-! How an exchange ends (45_transport_exchange.md R285 to R290): after its echo with the response, or at the byte of
the echo that differs. -/

namespace Sys2Proof.Machine

/-! ## Arrivals -/

/-- The state after `n` arrivals, which left the queue so (R261). -/
def arrived (n : Nat) (q : QueueState) (s : State) : State :=
  { s with queue := q, outputs := s.outputs ++ List.replicate n .clearOverrunFlag }

section
variable {s : State} {bytes more : List Byte}

/-- Bytes for which the queue has room arrive, and none is dropped (40_queue.md R131). -/
theorem Queued.runOn_arrive (h : Queued s bytes) (hroom : bytes.length + more.length ≤ s.params.qcap)
    (rest : List Input) : ∃ q, runOn (arrivals more ++ rest) s = runOn rest (arrived more.length q s) ∧
      Queued (arrived more.length q s) (bytes ++ more) := by
  induction more generalizing s bytes with
  | nil => exact ⟨s.queue, by simp [arrivals, arrived], by rw [List.append_nil]; exact h.congr rfl rfl⟩
  | cons b more ih =>
    rw [List.length_cons] at hroom
    have pushed : Queued (Machine.receiveEvent b s) (bytes ++ [b]) := (h.push_room (by omega) b).congr rfl rfl
    obtain ⟨q, hrun, hq⟩ := ih pushed (by
      rw [List.length_append, List.length_singleton, receiveEvent_params]; omega)
    refine ⟨q, (runOn_evRx s b _).trans (hrun.trans ?_), ?_⟩
    · simp [arrived, List.replicate_succ]
    · rw [List.append_assoc] at hq
      exact hq.congr rfl rfl

/-- The same into an empty queue. -/
theorem Queued.runOn_arrive_empty (h : Queued s []) (hfits : more.length ≤ s.params.qcap) (rest : List Input) :
    ∃ q, runOn (arrivals more ++ rest) s = runOn rest (arrived more.length q s) ∧
      Queued (arrived more.length q s) more :=
  h.runOn_arrive (by rw [List.length_nil, Nat.zero_add]; exact hfits) rest

end

/-! ## The echo -/

section
variable {s : State} {cmd id : Byte} {request payload before echo reply : List Byte}

/-- Echoed bytes that the queue can hold arrive before the verifier takes the first of them. -/
theorem runOn_echoArrives (hlen : request.length ≤ 255) (hlegal : QueueLegal s.params.qcap s.queue)
    (hfits : echo.length ≤ s.params.qcap) (rest : List Input) : ∃ q,
    runOn (arrivals echo ++ rest) (frameSent cmd request s) =
        runOn rest (arrived echo.length q (frameSent cmd request s)) ∧
      Queued (arrived echo.length q (frameSent cmd request s)) echo ∧
      EchoBegun (arrived echo.length q (frameSent cmd request s)) (builtFrame cmd request) := by
  have cleared : Queued (frameSent cmd request s) [] := (queued_clearQueue hlegal.cap_pos).congr rfl rfl
  have holds := (frameBuilt_withFrame cmd s hlen).holdsFrame
  obtain ⟨q, hrun, hq⟩ := cleared.runOn_arrive_empty hfits rest
  exact ⟨q, hrun, hq, holds.congr rfl, builtFrame_eq_cons cmd request, rfl, rfl, rfl⟩

/-- The exchange once its echo of `n` bytes is complete: the parse of the response has just begun (R285, R286). -/
def echoReturned (n : Nat) (q : QueueState) (cmd : Byte) (request : List Byte) (s : State) : State :=
  startParse { arrived n q (frameSent cmd request s) with
    seq := { s.seq with
      xstate := .awaitResponse, eidx := BitVec.ofNat 9 (builtFrame cmd request).length, outvalid := false } }

/-- A mirrored echo, its pad echoed or not, ends the stage `AWAIT_ECHO`. -/
theorem runOn_echoReturned (hlen : request.length ≤ 255) (hlegal : QueueLegal s.params.qcap s.queue)
    (hroom : request.length + 6 ≤ s.params.qcap)
    (hecho : echo = builtFrame cmd request ∨ echo = (builtFrame cmd request).tail) (rest : List Input) :
    ∃ q, runOn (arrivals echo ++ (polls echo.length ++ rest)) (frameSent cmd request s) =
        runOn rest (echoReturned echo.length q cmd request s) ∧
      Queued (echoReturned echo.length q cmd request s) [] := by
  have hfits : echo.length ≤ s.params.qcap := by
    have := builtFrame_length cmd request
    rcases hecho with rfl | rfl
    · omega
    · rw [List.length_tail]; omega
  obtain ⟨q, harrive, hq, begun⟩ := runOn_echoArrives (cmd := cmd) hlen hlegal hfits (polls echo.length ++ rest)
  obtain ⟨q', hwhole, hq', -⟩ := begun.runOn_whole hecho (rest := []) (by rwa [List.append_nil]) rest
  exact ⟨q', harrive.trans (hwhole.trans (congrArg (runOn rest) (if_pos rfl))), hq'.congr rfl rfl⟩

/-! ## The response -/

/-- A parse that has just begun on an empty queue takes a known response that arrives, behind at most three other
bytes, and commits its settings (43_frame_parser.md R199, R201). -/
theorem ParseJustBegun.runOn_response (h : ParseJustBegun s) (hq : Queued s []) (hid : id ∈ responseIds)
    (hlen : payload.length ≤ 255) (hbefore : before.length ≤ 3) (hreply : reply = before ++ responseOfId id payload)
    (hno : ∀ j, j < before.length → ¬ MagicAt reply j) (hfits : reply.length ≤ s.params.qcap) :
    ∃ q v n l, runOn (arrivals reply ++ polls (reply.length + 1)) s = .next (commit v
        { dispatching before.length id payload (arrived reply.length q s) with
          inputs := [], draws := n
          parser := { (dispatching before.length id payload s).parser with legacyok := l } }) ∧
      Queued { s with queue := q } [] ∧
      ResponseDecoded id (dispatching before.length id payload s) payload v l := by
  subst hreply
  obtain ⟨more, hmore⟩ := responseOfId_eq_cons id payload
  have frame := h.parses_responseOfId (id := id) hlen hbefore (hmore ▸ hno)
  generalize before ++ responseOfId id payload = reply at frame hfits ⊢
  have hpolls : polls (reply.length + 1) = polls reply.length ++ [.poll true] := List.replicate_succ'
  obtain ⟨q, harrive, hqueued⟩ := hq.runOn_arrive_empty hfits (polls (reply.length + 1))
  obtain ⟨q', hrun, hq', -⟩ := frame.runOn_polls (more := []) (e := arrived reply.length q s)
    (by rwa [List.append_nil]) [.poll true]
  obtain ⟨v, n, l, hdispatch, hdecoded⟩ := PayloadReceived.dispatch_known
    (s := { dispatching before.length id payload (arrived reply.length q' s) with inputs := [] })
    (dispatching_received before.length hlen) hid
  refine ⟨q', v, n, l, ?_, hq'.congr rfl rfl, hdecoded⟩
  rw [harrive, hpolls]
  exact hrun.trans (runOn_dispatch (s := dispatching before.length id payload s) (e := arrived reply.length q' s) rfl
    hdispatch)

end

/-! ## The whole exchange -/

/-- Settles O48: `X.CMD` to the last byte transmitted, the echo, and the response. -/
theorem exchangeSucceeds : Obligations.ExchangeSucceeds := by
  intro s cmd id request payload before echo ha hload hlegal hd hid hlen hbefore hno hroom hfits hecho frame reply
  obtain ⟨-, hidle⟩ := (accepting_iff s).mp ha
  obtain ⟨q, hechoed, hq⟩ := runOn_echoReturned hload.length_le hlegal hroom hecho
    (arrivals reply ++ polls (reply.length + 1))
  have begun : ParseJustBegun (echoReturned echo.length q cmd request s) := ⟨rfl, rfl, rfl, rfl⟩
  obtain ⟨q', v, n, l, hreplied, hq', hset, hleg, hcheck⟩ :=
    begun.runOn_response hq hid hlen hbefore rfl hno hfits
  have hrun := (hload.runOn_frameSent ha hd cmd _).trans (hechoed.trans hreplied)
  refine ⟨_, Eq.trans ?inputs hrun, { frameBuilt_withFrame cmd s hload.length_le with }, hset, hq'.congr rfl rfl,
    frameTaken_read (id := id) (lastStage id) before.length, hleg, hcheck, ?frame⟩
  case inputs =>
    simp only [List.cons_append, List.append_assoc]
    rfl
  case frame =>
    rw [hidle, ← List.replicate_append_replicate, ← List.append_assoc]
    rfl

/-- An echo that diverges is no longer than the frame, the byte that differs included. -/
theorem EchoDiverges.length_le {frame before : List Byte} {b : Byte} {k : Nat} (h : EchoDiverges frame before b k) :
    before.length + 1 ≤ frame.length := by
  obtain ⟨hk, -, -, rfl | ⟨-, rfl⟩⟩ := h <;> simp <;> omega

/-- Settles O49: the echo ends at the byte that differs, and inside an exchange the mismatch is its outcome. -/
theorem exchangeStopsOnEchoMismatch : Obligations.ExchangeStopsOnEchoMismatch := by
  intro s cmd b request before k ha hload hlegal hd hroom hdiv frame
  obtain ⟨-, hidle⟩ := (accepting_iff s).mp ha
  have hcount : (before ++ [b]).length = before.length + 1 := List.length_append
  have hfits : before.length + 1 ≤ s.params.qcap :=
    hdiv.length_le.trans ((builtFrame_length cmd request).trans_le hroom)
  obtain ⟨q, harrive, hq, begun⟩ := runOn_echoArrives (cmd := cmd) (echo := before ++ [b]) hload.length_le hlegal
    (hcount.trans_le hfits) (polls (before.length + 1))
  rw [hcount] at harrive hq begun
  obtain ⟨q', hdiverges, hq', -⟩ := begun.runOn_diverges hdiv hq
  have hrun := (hload.runOn_frameSent ha hd cmd _).trans (harrive.trans hdiverges)
  refine ⟨_, Eq.trans ?inputs hrun, { frameBuilt_withFrame cmd s hload.length_le with }, hq'.congr rfl rfl, ?frame⟩
  case inputs =>
    simp only [List.cons_append, List.append_assoc]
    rfl
  case frame =>
    rw [hidle]
    rfl

end Sys2Proof.Machine
end

section
/-! Raising an outcome (60_exceptions.md R300 to R309): the failure it reports, the port it frees, and the one field of
the parser it may write. -/

namespace Sys2Proof.Machine

section
variable (o : ExchangeOutcome) (s : State)

theorem raise_failedWith : FailedWith o s (raise o s) :=
  ⟨raise_seq o s, by rw [raise_results, code_setWidth]⟩

/-- No exchange runs and no operation is in progress after a failure, so the port is free (30_encoding.md R110, R112). -/
theorem accepting_raise : accepting (raise o s) = true :=
  (accepting_iff _).mpr ⟨raise_stopped o s, raise_task o s⟩

/-- Of the parser a failure writes `PSTATE` at most, whether a parse ends or another operation does. -/
theorem raise_parser_frame : (raise o s).parser = { s.parser with pstate := (raise o s).parser.pstate } := by
  rw [raise_parser]
  split
  case isTrue => rfl
  case isFalse => rfl

end

/-- Settles O50: the report by `raise_failedWith`, the next request by `accepting_raise`, the rest by the frame of
`raise`. -/
theorem raiseEndsOperation : Obligations.RaiseEndsOperation := fun o s =>
  ⟨raise_failedWith o s, accepting_raise o s, raise_queue o s, raise_settings o s, raise_link o s, raise_builder o s,
    raise_transport o s, raise_crcacc o s, raise_outputs o s, raise_parser_frame o s⟩

end Sys2Proof.Machine
end

section
/-! The registers after reset (70_reset_and_hazards.md R340). -/

namespace Sys2Proof.Machine

/-- After reset the link is at `BAUD_INIT`, 4800, searches upwards and has counted nothing. -/
theorem resetWith_link (qcap : Nat) (txTimeout : Half) :
    (State.resetWith qcap txTimeout).link = ⟨4800#16, .up, 0#8, 0#16, 0#16⟩ := rfl

/-- After reset no exchange runs, and `OUTCOME` holds the outcome of code 0 without being valid. -/
theorem resetWith_seq (qcap : Nat) (txTimeout : Half) :
    (State.resetWith qcap txTimeout).seq = ⟨.idle, 0#9, .success, false⟩ := rfl

/-- Settles O55: the link and the sequencer by their values after reset, under the codes of `DIR` and `OUTCOME`; every
other register is a literal of the reset block, read off unit by unit. -/
theorem resetRegisters : Obligations.ResetRegisters := by
  intro qcap txTimeout r
  have up_value : Dir.up.value = 1 := rfl
  have success_code : ExchangeOutcome.success.code = 0#3 := rfl
  rw [resetWith_link, resetWith_seq, up_value, success_code]
  exact
    ⟨rfl, rfl, rfl, -- the queue
      rfl, -- the checksum
      rfl, rfl, -- the builder
      rfl, rfl, -- the transport
      rfl, rfl, rfl, rfl, rfl, -- the parser
      rfl, -- the settings
      rfl, rfl, rfl, rfl, rfl, -- the link
      rfl, rfl, rfl, rfl⟩ -- the sequencer

end Sys2Proof.Machine
end
